-- ==== Sys2Proof/Word.lean ====
section
/-! DEFINITION. The word types of the BitSync channel decoder, each with the rule of spec/ that fixes its width. -/

namespace Sys2Proof

/-- One byte of the message buffer (20_memory.md R67). -/
abbrev Byte := BitVec 8

/-- One data bit of an input event (30_encoding.md R88: typed as one binary digit). -/
abbrev Bit := BitVec 1

/-- One input event word, resync in bit 2, valid in bit 1, bit in bit 0 (30_encoding.md R83). -/
abbrev EventWord := BitVec 3

/-- A message type code, byte 4 of a descrambled message (30_encoding.md R92). -/
abbrev TypeCode := BitVec 8

/-- A 2-bit code symbol (00_scope.md R11); bit 1 is the encoder's first output (30_encoding.md R90). -/
abbrev Symbol := BitVec 2

/-- A trellis state: the three most recent encoder input bits, newest in bit 0 (42_viterbi.md R115). -/
abbrev TrellisState := BitVec 3

/-- A path metric (00_scope.md R17). -/
abbrev Metric := BitVec 8

/-- The decoded-bit history of one trellis state (00_scope.md R18). -/
abbrev History := BitVec 32

/-- A group of 32 channel bits, the first received in bit 31 (20_memory.md R73). -/
abbrev Group := BitVec 32

end Sys2Proof
end

