-- ==== Sys2Proof/Syntax.lean ====
section
/-! DEFINITION. The instructions of spec/opcode_table.json, one constructor per row: the four input events of the
block boundary (30_encoding.md R84) and the message type codes of the dispatcher (30_encoding.md R93, 45_dispatcher.md
R149 to R166). Also the record kinds (30_encoding.md R95) and the field accessors of 45_dispatcher.md R167. -/

namespace Sys2Proof

/-- One constructor per row of the opcode table. `idle` and `resync` carry the bit they ignore (30_encoding.md R85), so
that no bit of an event word is dropped by decoding. -/
inductive Instr where
  /-- IDLE, event word `0 0 b` (46_channel_decoder.md R172). -/
  | idle (b : Bit)
  /-- FEED b, event word `0 1 b` (R173). -/
  | feed (b : Bit)
  /-- RESYNC, event word `1 0 b` (R174). -/
  | resync (b : Bit)
  /-- RESYNC_FEED b, event word `1 1 b` (R175). -/
  | resyncFeed (b : Bit)
  /-- Type code 0x01 (45_dispatcher.md R149). -/
  | type01Sensor
  /-- Type code 0x02 (R150). -/
  | type02Sensor
  /-- Type code 0x03 (R151). -/
  | type03Sensor
  /-- Type code 0x04 (R152). -/
  | type04Configuration
  /-- Type code 0x05 (R153). -/
  | type05Location
  /-- Type code 0x06 (R154). -/
  | type06Satellite
  /-- Type code 0x07 (R155). -/
  | type07Companion
  /-- Type code 0x08 (R156). -/
  | type08MegaSensor
  /-- Type code 0x12 (R157). -/
  | type12MegaSensor
  /-- Type code 0x09 (R158). -/
  | type09MegaData
  /-- Type code 0x15 (R159). -/
  | type15MegaData
  /-- Type code 0x0A (R160). -/
  | type0AMetrumSensor
  /-- Type code 0x0B (R161). -/
  | type0BMetrumData
  /-- Type code 0x10 (R162). -/
  | type10Mini
  /-- Type code 0x11 (R163). -/
  | type11Mini
  /-- Type code 0x13 (R164). -/
  | type13MegaNorm
  /-- Type code 0x14 (R165). -/
  | type14MegaNorm
  /-- Every other type code, carried as it stands (R166). -/
  | typeOtherBase (t : TypeCode)
  deriving DecidableEq, Repr

/-- The twelve record kinds (30_encoding.md R95, 45_dispatcher.md R170). -/
inductive Kind where
  | base
  | sensor
  | configuration
  | location
  | satellite
  | companion
  | megaSensor
  | megaData
  | metrumSensor
  | metrumData
  | mini
  | megaNorm
  deriving DecidableEq, Repr

/-- The extraction primitives a field decode may use on a message (45_dispatcher.md R167): little-endian integers of
one, two or four bytes, unsigned or signed, and fixed-length strings. -/
inductive Accessor where
  | unsigned8 (addr : Nat)
  | unsigned16 (addr : Nat)
  | unsigned32 (addr : Nat)
  | signed8 (addr : Nat)
  | signed16 (addr : Nat)
  | signed32 (addr : Nat)
  | string (addr len : Nat)
  deriving DecidableEq, Repr

/-- The first address an accessor reads. -/
def Accessor.addr : Accessor → Nat
  | .unsigned8 a => a
  | .unsigned16 a => a
  | .unsigned32 a => a
  | .signed8 a => a
  | .signed16 a => a
  | .signed32 a => a
  | .string a _ => a

/-- How many bytes an accessor reads. -/
def Accessor.size : Accessor → Nat
  | .unsigned8 _ => 1
  | .unsigned16 _ => 2
  | .unsigned32 _ => 4
  | .signed8 _ => 1
  | .signed16 _ => 2
  | .signed32 _ => 4
  | .string _ n => n

end Sys2Proof
end

