-- ==== Sys2Proof/WellFormed.lean ====
section
/-! DEFINITION. Which terms of Syntax.lean stand for something the spec writes down: an instruction some word decodes
to, and a field accessor that stays inside the payload. -/

namespace Sys2Proof

/-- The seventeen type codes that have a row of their own (30_encoding.md R93). -/
def listedCodes : List TypeCode :=
  [0x01, 0x02, 0x03, 0x04, 0x05, 0x06, 0x07, 0x08, 0x12, 0x09, 0x15, 0x0A, 0x0B, 0x10, 0x11, 0x13, 0x14]

/-- The fallback row applies only to a code that no other row lists (opcode table, row TYPE_OTHER_BASE; 45_dispatcher.md
R166). Every other term is the meaning of some word: all eight event words are legal (30_encoding.md R84). -/
def Instr.wellFormed : Instr → Bool
  | .typeOtherBase t => !listedCodes.contains t
  | .idle _ => true
  | .feed _ => true
  | .resync _ => true
  | .resyncFeed _ => true
  | .type01Sensor => true
  | .type02Sensor => true
  | .type03Sensor => true
  | .type04Configuration => true
  | .type05Location => true
  | .type06Satellite => true
  | .type07Companion => true
  | .type08MegaSensor => true
  | .type12MegaSensor => true
  | .type09MegaData => true
  | .type15MegaData => true
  | .type0AMetrumSensor => true
  | .type0BMetrumData => true
  | .type10Mini => true
  | .type11Mini => true
  | .type13MegaNorm => true
  | .type14MegaNorm => true

/-- Whether the instruction is one of the four input events of the block boundary (30_encoding.md R84). -/
def Instr.isEvent : Instr → Bool
  | .idle _ => true
  | .feed _ => true
  | .resync _ => true
  | .resyncFeed _ => true
  | _ => false

/-- An accessor that reads outside bytes 5 to 31 is ill-formed (20_memory.md R75, decision D35; U13). -/
def Accessor.wellFormed (f : Accessor) : Bool :=
  decide (5 ≤ f.addr ∧ f.addr + f.size ≤ 32)

end Sys2Proof
end

