-- ==== Sys2Proof/Decode.lean ====
section
/-! DEFINITION. The two decoders of the block and the encoder. An input event is decoded from its 3-bit word
(30_encoding.md R83 to R86); a type code is decoded from byte 4 of the descrambled message (R92 to R94). Both are total:
no input word and no type code is illegal (R84, R94). What is refused, by name, is a byte string that holds no word of
the format asked for. -/

namespace Sys2Proof

/-- The two instruction formats of the opcode table. -/
inductive Format where
  /-- EVT: the 3-bit event word (30_encoding.md R83). -/
  | evt
  /-- MSG: the type code of a message (30_encoding.md R92). -/
  | msg
  deriving DecidableEq, Repr

/-- A word of one of the two formats. -/
inductive Coded where
  | event (w : EventWord)
  | typeCode (t : TypeCode)
  deriving DecidableEq, Repr

/-- Why a byte string holds no instruction. -/
inductive DecodeError where
  /-- There is no byte to read. -/
  | noByte
  /-- A byte that is to hold an event word has a bit set above bit 2: an event word is exactly 3 bits (30_encoding.md R83). -/
  | eventWordTooWide
  deriving DecidableEq, Repr

/-- The event word's fields (30_encoding.md R83): resync. -/
def eventResync (w : EventWord) : Bool := w.getLsbD 2

/-- The event word's fields: valid. -/
def eventValid (w : EventWord) : Bool := w.getLsbD 1

/-- The event word's fields: the data bit. -/
def eventBit (w : EventWord) : Bit := w.extractLsb' 0 1

/-- The four input events (30_encoding.md R84). -/
def decodeEvent (w : EventWord) : Instr :=
  match eventResync w, eventValid w with
  | false, false => .idle (eventBit w)
  | false, true => .feed (eventBit w)
  | true, false => .resync (eventBit w)
  | true, true => .resyncFeed (eventBit w)

/-- The type-code map (30_encoding.md R93); the fallback row has the lowest priority. -/
def decodeType (t : TypeCode) : Instr :=
  match t with
  | 0x01#8 => .type01Sensor
  | 0x02#8 => .type02Sensor
  | 0x03#8 => .type03Sensor
  | 0x04#8 => .type04Configuration
  | 0x05#8 => .type05Location
  | 0x06#8 => .type06Satellite
  | 0x07#8 => .type07Companion
  | 0x08#8 => .type08MegaSensor
  | 0x12#8 => .type12MegaSensor
  | 0x09#8 => .type09MegaData
  | 0x15#8 => .type15MegaData
  | 0x0A#8 => .type0AMetrumSensor
  | 0x0B#8 => .type0BMetrumData
  | 0x10#8 => .type10Mini
  | 0x11#8 => .type11Mini
  | 0x13#8 => .type13MegaNorm
  | 0x14#8 => .type14MegaNorm
  | _ => .typeOtherBase t

/-- Decoding, total on both formats. -/
def decode : Coded → Instr
  | .event w => decodeEvent w
  | .typeCode t => decodeType t

/-- The event word with the given fields (30_encoding.md R83). -/
def eventWord (resync valid : Bit) (b : Bit) : EventWord := resync ++ valid ++ b

/-- The word of an instruction, from the same tables (30_encoding.md R84 and R93). -/
def encode : Instr → Coded
  | .idle b => .event (eventWord 0 0 b)
  | .feed b => .event (eventWord 0 1 b)
  | .resync b => .event (eventWord 1 0 b)
  | .resyncFeed b => .event (eventWord 1 1 b)
  | .type01Sensor => .typeCode 0x01
  | .type02Sensor => .typeCode 0x02
  | .type03Sensor => .typeCode 0x03
  | .type04Configuration => .typeCode 0x04
  | .type05Location => .typeCode 0x05
  | .type06Satellite => .typeCode 0x06
  | .type07Companion => .typeCode 0x07
  | .type08MegaSensor => .typeCode 0x08
  | .type12MegaSensor => .typeCode 0x12
  | .type09MegaData => .typeCode 0x09
  | .type15MegaData => .typeCode 0x15
  | .type0AMetrumSensor => .typeCode 0x0A
  | .type0BMetrumData => .typeCode 0x0B
  | .type10Mini => .typeCode 0x10
  | .type11Mini => .typeCode 0x11
  | .type13MegaNorm => .typeCode 0x13
  | .type14MegaNorm => .typeCode 0x14
  | .typeOtherBase t => .typeCode t

/-- One row of spec/opcode_table.json: its format, its mask and its match. -/
structure Row where
  format : Format
  mask : Nat
  value : Nat
  deriving DecidableEq, Repr

/-- The row an instruction is written in. -/
def Instr.row : Instr → Row
  | .idle _ => ⟨.evt, 0x6, 0x0⟩
  | .feed _ => ⟨.evt, 0x6, 0x2⟩
  | .resync _ => ⟨.evt, 0x6, 0x4⟩
  | .resyncFeed _ => ⟨.evt, 0x6, 0x6⟩
  | .type01Sensor => ⟨.msg, 0xFF, 0x01⟩
  | .type02Sensor => ⟨.msg, 0xFF, 0x02⟩
  | .type03Sensor => ⟨.msg, 0xFF, 0x03⟩
  | .type04Configuration => ⟨.msg, 0xFF, 0x04⟩
  | .type05Location => ⟨.msg, 0xFF, 0x05⟩
  | .type06Satellite => ⟨.msg, 0xFF, 0x06⟩
  | .type07Companion => ⟨.msg, 0xFF, 0x07⟩
  | .type08MegaSensor => ⟨.msg, 0xFF, 0x08⟩
  | .type12MegaSensor => ⟨.msg, 0xFF, 0x12⟩
  | .type09MegaData => ⟨.msg, 0xFF, 0x09⟩
  | .type15MegaData => ⟨.msg, 0xFF, 0x15⟩
  | .type0AMetrumSensor => ⟨.msg, 0xFF, 0x0A⟩
  | .type0BMetrumData => ⟨.msg, 0xFF, 0x0B⟩
  | .type10Mini => ⟨.msg, 0xFF, 0x10⟩
  | .type11Mini => ⟨.msg, 0xFF, 0x11⟩
  | .type13MegaNorm => ⟨.msg, 0xFF, 0x13⟩
  | .type14MegaNorm => ⟨.msg, 0xFF, 0x14⟩
  | .typeOtherBase _ => ⟨.msg, 0x00, 0x00⟩

/-- A coded word fits a row: it has the row's format and the row's fixed bits. -/
def Row.fits (r : Row) : Coded → Bool
  | .event w => r.format == .evt && w.toNat &&& r.mask == r.value
  | .typeCode t => r.format == .msg && t.toNat &&& r.mask == r.value

/-- Reads one instruction of the given format from the front of a byte string: an event word lies in the low three
bits of its byte, a type code is a whole byte. -/
def decodeBytes : Format → List Byte → Except DecodeError (Instr × List Byte)
  | _, [] => .error .noByte
  | .evt, b :: rest => if b.toNat < 8 then .ok (decodeEvent (b.setWidth 3), rest) else .error .eventWordTooWide
  | .msg, b :: rest => .ok (decodeType b, rest)

/-- The lowest `n` bytes of a number, least significant first. -/
def lowBytes : Nat → Nat → List Byte
  | 0, _ => []
  | n + 1, w => BitVec.ofNat 8 w :: lowBytes n (w / 256)

/-- Which format a table word is read in, when only its length in whole bytes is known. The two formats share the
numbers 0 to 7 in one byte; there the word is read as an event, which is what the block's boundary accepts
(DESIGN CHOICE, log entry 12). A word of more than one byte can only be a type code. -/
def tableFormat (nbits w : Nat) : Format :=
  if nbits ≤ 3 then .evt else if nbits ≤ 8 ∧ w < 8 then .evt else .msg

/-- The instruction the decoder reads from a table word, bit 0 of the word least significant. -/
def decodeTableWord (nbits w : Nat) : Option Instr :=
  match decodeBytes (tableFormat nbits w) (lowBytes ((nbits + 7) / 8) w) with
  | .ok (i, _) => some i
  | .error _ => none

end Sys2Proof
end

