-- ==== Sys2Proof/Config.lean ====
section
/-! DEFINITION. What the spec leaves to the implementation or to the host: the widths it only gives a default for,
and the two arguments of `PowerOn`. The constants of the decoder's algorithm (the code table, the forced points, the
polynomial and so on) stand in Machine/Parameters.lean. -/

namespace Sys2Proof.Config

/-- `FREQ_W` (00_scope.md R22, default 32; decision D26). -/
abbrev freqW : Nat := 32

/-- `TS_W` (00_scope.md R22, default 64; decision D27). -/
abbrev tsW : Nat := 64

/-- `CNT_W` (00_scope.md R23; decision D28). -/
abbrev cntW : Nat := 32

/-- `freq0`, the carrier frequency with which `State.reset` constructs the decoder. DESIGN CHOICE, log entry 1: the
spec takes it as an argument of `PowerOn` and names no default (10_state.md R53, R64); 0 is what the constructor of its
reference model takes (95_test_vectors.md section 10). Unsafe. -/
def freq0 : BitVec freqW := 0

/-- `policy0`, the CRC-failure policy with which `State.reset` constructs the decoder: `true` forwards the message with
an invalid flag. DESIGN CHOICE, log entry 2: the spec requires both policies and names no default (00_scope.md R21,
10_state.md R54); `true` is what the constructor of its reference model takes (95_test_vectors.md section 10). Unsafe. -/
def policy0 : Bool := true

/-- The timestamp input before any bit has been delivered. DESIGN CHOICE, log entry 3: an input of the host, for which
the spec states no value before the first FEED (10_state.md R55). Unsafe. -/
def ts0 : BitVec tsW := 0

end Sys2Proof.Config
end

