-- ==== Sys2Proof/Machine/Banks.lean ====
section
/-! DEFINITION. The shape of the Viterbi register file (10_state.md R39 to R41): eight values, one per trellis state, in
two buffers selected by a one-bit index. -/

namespace Sys2Proof.Machine

/-- Eight values, one per trellis state. -/
structure PerState (α : Type) where
  s0 : α
  s1 : α
  s2 : α
  s3 : α
  s4 : α
  s5 : α
  s6 : α
  s7 : α
  deriving DecidableEq, Repr

/-- Two buffers of one shape (10_state.md R48). -/
structure Double (α : Type) where
  b0 : α
  b1 : α
  deriving DecidableEq, Repr

/-- The value of trellis state `q`. -/
def PerState.get {α : Type} (v : PerState α) (q : TrellisState) : α :=
  match q.toNat with
  | 0 => v.s0
  | 1 => v.s1
  | 2 => v.s2
  | 3 => v.s3
  | 4 => v.s4
  | 5 => v.s5
  | 6 => v.s6
  | _ => v.s7

/-- The eight values of a function of the trellis state. -/
def PerState.ofFn {α : Type} (f : TrellisState → α) : PerState α :=
  ⟨f 0, f 1, f 2, f 3, f 4, f 5, f 6, f 7⟩

/-- The same value for all eight states. -/
def PerState.all {α : Type} (x : α) : PerState α := ⟨x, x, x, x, x, x, x, x⟩

/-- The buffer with index `p`. -/
def Double.get {α : Type} (d : Double α) (p : BitVec 1) : α := if p = 0 then d.b0 else d.b1

/-- Replaces the buffer with index `p`. -/
def Double.set {α : Type} (d : Double α) (p : BitVec 1) (x : α) : Double α :=
  if p = 0 then ⟨x, d.b1⟩ else ⟨d.b0, x⟩

/-- The shape of the encoder output table `ENC` (00_scope.md R19): for each trellis state the symbols of its transitions on
input bit 0 and on input bit 1. -/
abbrev CodeTable := PerState (Double Symbol)

end Sys2Proof.Machine
end

