-- ==== Sys2Proof/Machine/Parameters.lean ====
section
/-! DEFINITION. The implementation parameters of 00_scope.md section 5 and the reset values of 10_state.md R65, each
named once. They stand here, and not in Config.lean, so that a later repair can change one in one place
(42_viterbi.md R132 asks this of the forced points). -/

namespace Sys2Proof.Machine

/-- `SYNC_WORD` (00_scope.md R10). -/
def syncWord : BitVec 16 := 0xD391

/-- `GROUP_BITS` (00_scope.md R11). -/
def groupBits : Nat := 32

/-- `SYMS_PER_GROUP` (00_scope.md R11). -/
def symsPerGroup : Nat := 16

/-- `NUM_V_HIST`, the traceback depth (00_scope.md R12), also the byte offset of an emission (42_viterbi.md R127). -/
def numVHist : Nat := 24

/-- `MSG_BYTES` (00_scope.md R13). -/
def msgBytes : Nat := 36

/-- `CRC_COVER` (00_scope.md R13). -/
def crcCover : Nat := 32

/-- `GROUPS_PER_MSG` (00_scope.md R14). -/
def groupsPerMsg : BitVec 5 := 18

/-- `LFSR_INIT` (00_scope.md R15). -/
def lfsrInit : BitVec 9 := 0x1FF

/-- `CRC_POLY` (00_scope.md R16). -/
def crcPoly : BitVec 16 := 0x8005

/-- `CRC_INIT` (00_scope.md R16). -/
def crcInit : BitVec 16 := 0xFFFF

/-- `COST_MAX` (00_scope.md R17). -/
def costMax : Nat := 255

/-- `FORCE_B1` (00_scope.md R20, decision D17; DEDUCED, log entry 6). -/
def forceB1 : BitVec 9 := 280

/-- `FORCE_B2`, the very end of the message (00_scope.md R20, decision D17; DEDUCED, log entry 6). -/
def forceB2 : BitVec 9 := 288

/-- The code table whose sixteen entries, in the spec's index order `(state << 1) | bit`, are listed (00_scope.md R19,
42_viterbi.md R117). -/
def tableOf (xs : List Symbol) : CodeTable :=
  PerState.ofFn fun q => ⟨xs.getD (2 * q.toNat) 0, xs.getD (2 * q.toNat + 1) 0⟩

/-- The default of the configuration table `ENC` (00_scope.md R19, 42_viterbi.md R118). PRESUMED: the spec takes the values
from general knowledge (log entry 5). -/
def encTable : CodeTable := tableOf [0, 3, 1, 2, 3, 0, 2, 1, 3, 0, 2, 1, 0, 3, 1, 2]

/-- What an address of the message buffer that is not listed reads as: the buffer's reset value (10_state.md R44, D29). -/
def unlistedByte : Byte := 0x00

/-- The initial path metrics of the current buffer (10_state.md R39, 42_viterbi.md R124, decision D12). -/
def startMetrics : PerState Metric := ⟨0, 255, 255, 255, 255, 255, 255, 255⟩

/-- Both metric buffers after `ResetDecodeState` (10_state.md R63). -/
def resetCost : Double (PerState Metric) := ⟨startMetrics, PerState.all 0⟩

/-- Both history buffers after `ResetDecodeState` (10_state.md R63). -/
def resetBits : Double (PerState History) := ⟨PerState.all 0, PerState.all 0⟩

end Sys2Proof.Machine
end

