-- ==== Sys2Proof/Machine/State.lean ====
section
/-! DEFINITION. The state of one channel decoder as plain data (10_state.md), the output event (30_encoding.md R96), the
reasons a step can stop, and the state after construction. -/

namespace Sys2Proof.Machine

/-- The message buffer: the bytes of addresses 0 to 35 that differ from `unlistedByte`, by strictly rising address
(20_memory.md R67). `Memory.wf` in Ops.lean says that the form holds. -/
abbrev Memory := List Host.Cell

/-- A telemetry record, immutable once built (30_encoding.md R96, 45_dispatcher.md R146). -/
structure Record where
  /-- The CRC verdict the record is tagged with. -/
  valid : Bool
  kind : Kind
  type : TypeCode
  serial : BitVec 16
  rtime : BitVec 16
  freq : BitVec Config.freqW
  ts : BitVec Config.tsW
  /-- The 36 descrambled bytes, address 0 first. -/
  msg : List Byte
  deriving DecidableEq, Repr

/-- The output event of one input event (30_encoding.md R96, 46_channel_decoder.md R179). -/
inductive OutEvent where
  /-- `NONE`. -/
  | none
  /-- `RECORD`. -/
  | record (r : Record)
  /-- `CRC_FAIL`. -/
  | crcFail (crcCalc crcRx : BitVec 16)
  deriving DecidableEq, Repr

/-- What the host delivers at once: an event word and the timestamp input that goes with it (46_channel_decoder.md R171,
R181 (c)). -/
structure InputEvent where
  word : EventWord
  ts : BitVec Config.tsW
  deriving DecidableEq, Repr

/-- The state of one channel decoder. The fields `sync` to `rxcrc` are the decode state (10_state.md R32); `freq` to
`ts` are its configuration, diagnostic counters and sampled input (R53 to R58). `inputs` and `out` are the model's own
(DESIGN CHOICE, log entry 4): the host's deliveries still to come, and the value the latest event returned. -/
structure State where
  /-- Sync-acquisition flag: `false` hunting, `true` locked (10_state.md R34). -/
  sync : Bool
  /-- The last 16 bits while hunting (R35). -/
  reg : BitVec 16
  /-- Raw-bit accumulation buffer (R36). -/
  grp : Group
  /-- Fill count of `grp`, 0 to 32 (R37). -/
  grpfill : BitVec 6
  /-- Groups consumed toward the current message, 0 to 18 (R38). -/
  ngrp : BitVec 5
  /-- Path metrics, two buffers of eight (R39). -/
  cost : Double (PerState Metric)
  /-- Decoded-bit histories, two buffers of eight (R40). -/
  bits : Double (PerState History)
  /-- Index of the current buffer (R41). -/
  p : BitVec 1
  /-- Trellis steps done for the current message, 0 to 288 (R42). -/
  nbits : BitVec 9
  /-- Bytes appended to `msg`, 0 to 36 (R43). -/
  nout : BitVec 6
  /-- The message buffer (R44). -/
  msg : Memory
  /-- Whitening LFSR (R45). -/
  lfsr : BitVec 9
  /-- Running CRC accumulator (R46). -/
  crc : BitVec 16
  /-- Received CRC holder (R47). -/
  rxcrc : BitVec 16
  /-- Carrier frequency, configuration (R53). -/
  freq : BitVec Config.freqW
  /-- Policy for a message that fails the CRC, configuration: `true` forwards it (R54). -/
  forwardInvalid : Bool
  /-- The encoder output table `ENC`, configuration (00_scope.md R19; DESIGN CHOICE, log entry 20: it stands with the
  configuration, and no event changes it). -/
  enc : CodeTable
  /-- Messages attempted (R56). -/
  cntAttempt : BitVec Config.cntW
  /-- CRC passes (R57). -/
  cntPass : BitVec Config.cntW
  /-- Messages abandoned by a resynchronize signal (R58). -/
  cntAbandon : BitVec Config.cntW
  /-- The capture timestamp sampled with the latest delivered bit (R55). -/
  ts : BitVec Config.tsW
  /-- The model's own: input events the host has yet to deliver, the next one first. -/
  inputs : List InputEvent
  /-- The model's own: the output event of the latest input event; it is held only until the next one. -/
  out : OutEvent
  deriving DecidableEq, Repr

/-- Why the machine stops with a fault. -/
inductive Fault where
  /-- An access to a message-buffer address outside 0 to 35 (20_memory.md R67 and R75: such an access is not defined;
  DESIGN CHOICE, log entry 8). Raised by the checked memory primitives; the decoder's own accesses reach it only from a
  state that breaks the invariant of 10_state.md R50. Safe: the machine stops where the spec gives no effect. -/
  | outsideBuffer (addr : Nat)
  deriving DecidableEq, Repr

/-- Why the machine refuses. -/
inductive Refusal where
  /-- An instruction that has no meaning yet; raised by no arm of `exec`. Safe. -/
  | notModelled (mnemonic : String)
  /-- A field accessor that reads outside bytes 5 to 31 (20_memory.md R75, decision D35; 93_implementation_defined.md
  U13). Raised by `Accessor.read` only, which no instruction uses. Safe. -/
  | outsidePayload (addr len : Nat)
  deriving DecidableEq, Repr

/-- The outcome of an operation of this machine. -/
abbrev Run := Host.Outcome State Fault Refusal

/-- `PowerOn(freq0, policy0)`, construction (10_state.md R64 and R65), of an instance whose parameter `ENC` is `enc0`, by
default the spec's table (00_scope.md R19). -/
def State.powerOn (freq0 : BitVec Config.freqW) (policy0 : Bool) (enc0 : CodeTable := encTable) : State where
  sync := false
  reg := 0x0000
  grp := 0x00000000
  grpfill := 0
  ngrp := 0
  cost := resetCost
  bits := resetBits
  p := 0
  nbits := 0
  nout := 0
  msg := []
  lfsr := lfsrInit
  crc := crcInit
  rxcrc := 0x0000
  freq := freq0
  forwardInvalid := policy0
  enc := enc0
  cntAttempt := 0
  cntPass := 0
  cntAbandon := 0
  ts := Config.ts0
  inputs := []
  out := .none

/-- The machine right after reset: construction with the configuration that Config.lean names (log entries 1 to 3) and the
default code table (log entry 5). -/
def State.reset : State := State.powerOn Config.freq0 Config.policy0

end Sys2Proof.Machine
end

