-- ==== Sys2Proof/Machine/Ops.lean ====
section
/-! DEFINITION. The named operations shared by the pipeline stages: sequencing of outcomes, the message buffer
(20_memory.md), the emission of an output event, `ResetDecodeState` (the block's nearest thing to taking an exception,
60_exceptions.md R195; there is no return from it, R196), the counters, and the delivery of the next input event. -/

namespace Sys2Proof.Machine

/-- Runs `f` on the next state, if there is one. -/
def andThen (r : Run) (f : State → Run) : Run :=
  match r with
  | .next s => f s
  | .fault e => .fault e
  | .refused e => .refused e

/-- The byte at an address; one that is not listed reads as the reset value (20_memory.md R67, 10_state.md R44). -/
def Memory.byteAt : Memory → Nat → Byte
  | [], _ => unlistedByte
  | (b, x) :: rest, a => if b = a then x else Memory.byteAt rest a

/-- Writes one byte, keeping the canonical form: rising addresses, and no entry equal to what an unlisted address reads
as. -/
def Memory.store : Memory → Nat → Byte → Memory
  | [], a, v => if v = unlistedByte then [] else [(a, v)]
  | (b, x) :: rest, a, v =>
    if a < b then (if v = unlistedByte then (b, x) :: rest else (a, v) :: (b, x) :: rest)
    else if a = b then (if v = unlistedByte then rest else (a, v) :: rest)
    else (b, x) :: Memory.store rest a v

/-- Rising addresses from `lo` on, all inside the buffer, and no entry equal to what an unlisted address reads as. -/
def Memory.wfFrom : Nat → Memory → Bool
  | _, [] => true
  | lo, (a, x) :: rest => decide (lo ≤ a) && decide (a < msgBytes) && decide (x ≠ unlistedByte) && Memory.wfFrom (a + 1) rest

/-- The canonical form of the message buffer. -/
def Memory.wf (m : Memory) : Bool := Memory.wfFrom 0 m

/-- The `n` bytes from address `a` on. -/
def Memory.bytesFrom (m : Memory) (a n : Nat) : List Byte :=
  (List.range n).map fun i => m.byteAt (a + i)

/-- `msg[a] <- v` for an address the rules fix inside 0 to 35. -/
def storeByte (a : Nat) (v : Byte) (s : State) : State :=
  { s with msg := s.msg.store a v }

/-- `MemWrite(a, 1, v)` (00_scope.md R27): only byte writes exist, and only to addresses 0 to 35 (20_memory.md R67). -/
def memWrite (a : Nat) (v : Byte) (s : State) : Run :=
  if a < msgBytes then .next (storeByte a v s) else .fault (.outsideBuffer a)

/-- `emit E(fields)`: the output event of the current input event (00_scope.md R28, 46_channel_decoder.md R179). -/
def emit (o : OutEvent) (s : State) : State := { s with out := o }

/-- `ResetDecodeState()` (10_state.md R63): every field of the decode state, and nothing else. -/
def resetDecodeState (s : State) : State :=
  { s with
    sync := false
    reg := 0x0000
    grp := 0x00000000
    grpfill := 0
    ngrp := 0
    cost := resetCost
    bits := resetBits
    p := 0
    nbits := 0
    nout := 0
    msg := []
    lfsr := lfsrInit
    crc := crcInit
    rxcrc := 0x0000 }

/-- `cnt_abandon <- (cnt_abandon + 1)[31:0]` if locked (46_channel_decoder.md R174). -/
def countAbandon (s : State) : State :=
  { s with cntAbandon := if s.sync then s.cntAbandon + 1 else s.cntAbandon }

/-- The counters of a message completion whose CRC verdict is `valid` (46_channel_decoder.md R178; 10_state.md R56, R57). -/
def countMessage (valid : Bool) (s : State) : State :=
  { s with
    cntAttempt := s.cntAttempt + 1
    cntPass := if valid then s.cntPass + 1 else s.cntPass }

/-- Takes the next delivery of the host off its queue; the timestamp input is sampled with a delivered bit only
(10_state.md R55; DESIGN CHOICE, log entry 4). -/
def takeInput (e : InputEvent) (rest : List InputEvent) (s : State) : State :=
  { s with
    inputs := rest
    ts := if eventValid e.word then e.ts else s.ts }

/-- The next instruction and the state in which it runs. When the host has delivered nothing, nothing happens: that is
an IDLE event (46_channel_decoder.md R172, 60_exceptions.md R202). -/
def fetch (s : State) : Instr × State :=
  match s.inputs with
  | [] => (.idle 0, s)
  | e :: rest => (decode (.event e.word), takeInput e rest s)

end Sys2Proof.Machine
end

