-- ==== Sys2Proof/Machine/Flags.lean ====
section
/-! DEFINITION. The conditions of the block: its two one-bit conditions (10_state.md R52) and the tests of the sequencer
on its counters (70_reset_and_hazards.md R207). No operation sets a flag as a side effect of computing something else. -/

namespace Sys2Proof.Machine

/-- SYNC.MATCH's comparison, on all 16 bits (40_bitsync.md R103). -/
def syncMatches (s : State) : Bool := decide (s.reg = syncWord)

/-- CRC.CHECK: `valid`, a value of the event and not state (44_crc.md R142, 10_state.md R52). -/
def crcValid (s : State) : Bool := decide (s.crc = s.rxcrc)

/-- The emission trigger `nbits - 8 * nout = 32` (42_viterbi.md R125), on the integers: a counter that is behind the
bytes already appended never meets it. -/
def emitDue (s : State) : Bool := decide (s.nbits.toNat = 8 * s.nout.toNat + (8 + numVHist))

/-- A forced point: state 0 is selected whatever the metrics (42_viterbi.md R126). -/
def forcedPoint (s : State) : Bool := decide (s.nbits = forceB1 ∨ s.nbits = forceB2)

/-- The final termination point (42_viterbi.md R128). -/
def atFinalPoint (s : State) : Bool := decide (s.nbits = forceB2)

/-- The group buffer is full (46_channel_decoder.md R176). -/
def groupFull (s : State) : Bool := decide (s.grpfill.toNat = groupBits)

/-- The message is complete (46_channel_decoder.md R177, decision D9). -/
def messageComplete (s : State) : Bool := decide (s.ngrp = groupsPerMsg)

end Sys2Proof.Machine
end

