-- ==== Sys2Proof/Machine/BitSync.lean ====
section
/-! DEFINITION. BitSync, sync-word acquisition (40_bitsync.md). -/

namespace Sys2Proof.Machine

/-- SYNC.SHIFT (40_bitsync.md R102). -/
def syncShift (b : Bit) (s : State) : State :=
  { s with reg := (s.reg <<< 1) ||| b.setWidth 16 }

/-- SYNC.MATCH (40_bitsync.md R103). -/
def syncMatch (s : State) : State :=
  { s with sync := if syncMatches s then true else s.sync }

end Sys2Proof.Machine
end

