-- ==== Sys2Proof/Machine/Operands.lean ====
section
/-! DEFINITION. Every operand the block assembles from bits (30_encoding.md R97): the message fields, the symbols of a
group, and the extraction primitives of 45_dispatcher.md R167. -/

namespace Sys2Proof.Machine

/-- `msg[a] | msg[a+1] << 8` (20_memory.md R70). -/
def le16 (m : Memory) (a : Nat) : BitVec 16 := m.byteAt (a + 1) ++ m.byteAt a

/-- The 4-byte little-endian value at `a` (20_memory.md R70). -/
def le32 (m : Memory) (a : Nat) : BitVec 32 :=
  m.byteAt (a + 3) ++ m.byteAt (a + 2) ++ m.byteAt (a + 1) ++ m.byteAt a

/-- `msg[a] << 8 | msg[a+1]` (20_memory.md R71). -/
def be16 (m : Memory) (a : Nat) : BitVec 16 := m.byteAt a ++ m.byteAt (a + 1)

/-- An access of `n` bytes at `a` is defined only when `a + n <= 36` (20_memory.md R75). -/
def checkAccess {α : Type} (a n : Nat) (v : α) : Except Fault α :=
  if a + n ≤ msgBytes then .ok v else .error (.outsideBuffer a)

/-- `MemRead(a, 1)` (20_memory.md R70). -/
def memRead1 (m : Memory) (a : Nat) : Except Fault Byte := checkAccess a 1 (m.byteAt a)

/-- `MemRead(a, 2)` (20_memory.md R70). -/
def memRead2 (m : Memory) (a : Nat) : Except Fault (BitVec 16) := checkAccess a 2 (le16 m a)

/-- `MemRead(a, 4)` (20_memory.md R70). -/
def memRead4 (m : Memory) (a : Nat) : Except Fault (BitVec 32) := checkAccess a 4 (le32 m a)

/-- `MemReadBE(a, 2)` (20_memory.md R71, 00_scope.md R27). -/
def memReadBE2 (m : Memory) (a : Nat) : Except Fault (BitVec 16) := checkAccess a 2 (be16 m a)

/-- The bytes of a field up to but not including the first 0x00, or all of them (20_memory.md R77, decisions D36 and
D37). -/
def stringBytes (field : List Byte) : List Byte := field.takeWhile fun b => b != 0x00

/-- `MemStr(a, n)` (20_memory.md R77). -/
def memStr (m : Memory) (a n : Nat) : Except Fault (List Byte) := checkAccess a n (stringBytes (m.bytesFrom a n))

/-- `serial`, bytes 0 and 1 little-endian (45_dispatcher.md R147). -/
def serialOf (m : Memory) : BitVec 16 := le16 m 0

/-- `rtime`, bytes 2 and 3 little-endian, centiseconds (45_dispatcher.md R147). -/
def rtimeOf (m : Memory) : BitVec 16 := le16 m 2

/-- `type`, byte 4 (45_dispatcher.md R146). -/
def typeOf (m : Memory) : TypeCode := m.byteAt 4

/-- `crc_rx`, bytes 32 and 33 big-endian (20_memory.md R71, 44_crc.md R141). -/
def crcRxOf (m : Memory) : BitVec 16 := be16 m 32

/-- All 36 bytes, address 0 first. -/
def messageOf (m : Memory) : List Byte := m.bytesFrom 0 msgBytes

/-- The payload of a record, its bytes 5 to 31 (30_encoding.md R96). -/
def Record.payload (r : Record) : List Byte := (r.msg.drop 5).take 27

/-- Symbol `k` of a deinterleaved word, its bits `31-2k` and `30-2k` (30_encoding.md R90, 41_deinterleaver.md R111). -/
def symbolAt (w : Group) (k : Nat) : Symbol := w.extractLsb' (30 - 2 * k) 2

/-- The sixteen symbols of a deinterleaved word, symbol 0 first (41_deinterleaver.md R111). -/
def symbolsOf (w : Group) : List Symbol := (List.range symsPerGroup).map (symbolAt w)

/-- What a field accessor yields. -/
inductive FieldValue where
  /-- An integer: unsigned, or two's complement (20_memory.md R70; PRESUMED, log entry 9). -/
  | int (v : Int)
  /-- A string's bytes, not checked to be ASCII (20_memory.md R77). -/
  | str (bytes : List Byte)
  deriving DecidableEq, Repr

/-- The value an accessor reads from a descrambled message, its range left unchecked (45_dispatcher.md R167). -/
def Accessor.value (m : Memory) : Accessor → FieldValue
  | .unsigned8 a => .int (m.byteAt a).toNat
  | .unsigned16 a => .int (le16 m a).toNat
  | .unsigned32 a => .int (le32 m a).toNat
  | .signed8 a => .int (m.byteAt a).toInt
  | .signed16 a => .int (le16 m a).toInt
  | .signed32 a => .int (le32 m a).toInt
  | .string a n => .str (stringBytes (m.bytesFrom a n))

/-- Reads a field of the payload; an accessor that leaves bytes 5 to 31 is refused (20_memory.md R75, decision D35). -/
def Accessor.read (m : Memory) (f : Accessor) : Except Refusal FieldValue :=
  if f.wellFormed then .ok (Accessor.value m f) else .error (.outsidePayload f.addr f.size)

end Sys2Proof.Machine
end

