-- ==== Sys2Proof/Machine/Crc.lean ====
section
/-! DEFINITION. The CRC-16 validator, polynomial 0x8005 (44_crc.md; 90_conflicts.md C2). -/

namespace Sys2Proof.Machine

/-- CRC.BIT on the accumulator's value (44_crc.md R139). -/
def crcBit (c : BitVec 16) (b : Bool) : BitVec 16 :=
  if (c.getLsbD 15 ^^ b) then (c <<< 1) ^^^ crcPoly else c <<< 1

/-- Eight CRC.BIT steps, most significant bit of the byte first (44_crc.md R140). -/
def crcByte (c : BitVec 16) (x : Byte) : BitVec 16 :=
  [7, 6, 5, 4, 3, 2, 1, 0].foldl (fun acc j => crcBit acc (x.getLsbD j)) c

/-- The accumulator after some bytes (44_crc.md R140). -/
def crcBytes (c : BitVec 16) (xs : List Byte) : BitVec 16 := xs.foldl crcByte c

/-- CRC.MSG: the descrambled bytes 0 to 31 (44_crc.md R140). -/
def crcMsg (s : State) : State := { s with crc := crcBytes s.crc (s.msg.bytesFrom 0 crcCover) }

/-- CRC.RX (44_crc.md R141). -/
def crcRx (s : State) : State := { s with rxcrc := crcRxOf s.msg }

end Sys2Proof.Machine
end

