-- ==== Sys2Proof/Machine/Deinterleaver.lean ====
section
/-! DEFINITION. The deinterleaver, a 4×4 transposition of 2-bit symbols (41_deinterleaver.md). It has no state. -/

namespace Sys2Proof.Machine

/-- The source bit offset of output symbol `k` (41_deinterleaver.md R109). -/
def deintOffset (k : Nat) : Nat := k / 4 * 2 + k % 4 * 8

/-- One round of DEINT's loop: appends source symbol `k` to the accumulator. -/
def deintStep (w acc : Group) (k : Nat) : Group :=
  (acc <<< 2) ||| ((w >>> deintOffset k).extractLsb' 0 2).setWidth 32

/-- DEINT (41_deinterleaver.md R109), the formula taken literally as R113 asks; the offset counts from the least
significant bit (decision D7; DEDUCED, log entry 7). -/
def deinterleave (w : Group) : Group :=
  (List.range symsPerGroup).foldl (deintStep w) 0

end Sys2Proof.Machine
end

