-- ==== Sys2Proof/Machine/Descrambler.lean ====
section
/-! DEFINITION. The descrambler, a 9-bit LFSR (43_descrambler.md). -/

namespace Sys2Proof.Machine

/-- LFSR.STEP on the register's value: `bit0 XOR bit5` is read before the shift and enters at bit 8
(43_descrambler.md R134). -/
def lfsrStep (l : BitVec 9) : BitVec 9 :=
  ((l.extractLsb' 0 1 ^^^ l.extractLsb' 5 1).setWidth 9 <<< 8) ||| (l >>> 1)

/-- `n` steps of the LFSR. -/
def lfsrSteps : Nat → BitVec 9 → BitVec 9
  | 0, l => l
  | n + 1, l => lfsrSteps n (lfsrStep l)

/-- The byte DESCR.BYTE XORs: the low eight bits of the register (43_descrambler.md R135). -/
def whitenByte (l : BitVec 9) : Byte := l.setWidth 8

/-- DESCR.BYTE for an address `i` below 36 (43_descrambler.md R135). -/
def descrByte (s : State) (i : Nat) : State :=
  { storeByte i (s.msg.byteAt i ^^^ whitenByte s.lfsr) s with lfsr := lfsrSteps 8 s.lfsr }

/-- DESCR.MSG: bytes 0 to 35 in ascending order (43_descrambler.md R136). -/
def descrMsg (s : State) : State := (List.range msgBytes).foldl descrByte s

/-- The first `n` bytes of the whitening sequence from register value `l`. -/
def whitening : Nat → BitVec 9 → List Byte
  | 0, _ => []
  | n + 1, l => whitenByte l :: whitening n (lfsrSteps 8 l)

end Sys2Proof.Machine
end

