-- ==== Sys2Proof/Machine/Dispatcher.lean ====
section
/-! DEFINITION. The packet dispatcher (45_dispatcher.md): the meaning of every type code, the lookup table, and the
selection. The per-kind field decode is not part of the hardware (R169; 00_scope.md R7). -/

namespace Sys2Proof.Machine

/-- The 4-bit code of a record kind (30_encoding.md R95, decision D24). -/
def kindCode : Kind → BitVec 4
  | .base => 0
  | .sensor => 1
  | .configuration => 2
  | .location => 3
  | .satellite => 4
  | .companion => 5
  | .megaSensor => 6
  | .megaData => 7
  | .metrumSensor => 8
  | .metrumData => 9
  | .mini => 10
  | .megaNorm => 11

/-- `KindOf` (45_dispatcher.md R148), total on 0 to 255. -/
def kindOf (t : TypeCode) : Kind :=
  match t with
  | 0x01#8 | 0x02#8 | 0x03#8 => .sensor
  | 0x04#8 => .configuration
  | 0x05#8 => .location
  | 0x06#8 => .satellite
  | 0x07#8 => .companion
  | 0x08#8 | 0x12#8 => .megaSensor
  | 0x09#8 | 0x15#8 => .megaData
  | 0x0A#8 => .metrumSensor
  | 0x0B#8 => .metrumData
  | 0x10#8 | 0x11#8 => .mini
  | 0x13#8 | 0x14#8 => .megaNorm
  | _ => .base

/-- The record of the descrambled message in the buffer, under a kind and a type code (45_dispatcher.md R146, R147). -/
def recordOf (k : Kind) (t : TypeCode) (s : State) : Record where
  valid := crcValid s
  kind := k
  type := t
  serial := serialOf s.msg
  rtime := rtimeOf s.msg
  freq := s.freq
  ts := s.ts
  msg := messageOf s.msg

/-- What every type code does: emits the record of its kind (45_dispatcher.md R146). -/
def dispatchAs (k : Kind) (t : TypeCode) (s : State) : Run := .next (emit (.record (recordOf k t s)) s)

/-- TYPE 0x01, Sensor (45_dispatcher.md R149). -/
def execType01Sensor (s : State) : Run := dispatchAs .sensor 0x01 s

/-- TYPE 0x02, Sensor (R150). -/
def execType02Sensor (s : State) : Run := dispatchAs .sensor 0x02 s

/-- TYPE 0x03, Sensor (R151). -/
def execType03Sensor (s : State) : Run := dispatchAs .sensor 0x03 s

/-- TYPE 0x04, Configuration (R152). -/
def execType04Configuration (s : State) : Run := dispatchAs .configuration 0x04 s

/-- TYPE 0x05, Location (R153). -/
def execType05Location (s : State) : Run := dispatchAs .location 0x05 s

/-- TYPE 0x06, Satellite (R154). -/
def execType06Satellite (s : State) : Run := dispatchAs .satellite 0x06 s

/-- TYPE 0x07, Companion (R155). -/
def execType07Companion (s : State) : Run := dispatchAs .companion 0x07 s

/-- TYPE 0x08, MegaSensor (R156). -/
def execType08MegaSensor (s : State) : Run := dispatchAs .megaSensor 0x08 s

/-- TYPE 0x12, MegaSensor (R157). -/
def execType12MegaSensor (s : State) : Run := dispatchAs .megaSensor 0x12 s

/-- TYPE 0x09, MegaData (R158). -/
def execType09MegaData (s : State) : Run := dispatchAs .megaData 0x09 s

/-- TYPE 0x15, MegaData (R159). -/
def execType15MegaData (s : State) : Run := dispatchAs .megaData 0x15 s

/-- TYPE 0x0A, MetrumSensor (R160). -/
def execType0AMetrumSensor (s : State) : Run := dispatchAs .metrumSensor 0x0A s

/-- TYPE 0x0B, MetrumData (R161). -/
def execType0BMetrumData (s : State) : Run := dispatchAs .metrumData 0x0B s

/-- TYPE 0x10, Mini (R162). -/
def execType10Mini (s : State) : Run := dispatchAs .mini 0x10 s

/-- TYPE 0x11, Mini (R163). -/
def execType11Mini (s : State) : Run := dispatchAs .mini 0x11 s

/-- TYPE 0x13, MegaNorm (R164). -/
def execType13MegaNorm (s : State) : Run := dispatchAs .megaNorm 0x13 s

/-- TYPE 0x14, MegaNorm (R165). -/
def execType14MegaNorm (s : State) : Run := dispatchAs .megaNorm 0x14 s

/-- Every other type code, Base; the record still carries the code (R166). -/
def execTypeOtherBase (t : TypeCode) (s : State) : Run := dispatchAs .base t s

/-- Runs the instruction that a type code decodes to; whatever is not listed is the fallback (30_encoding.md R94). -/
def dispatchCode (t : TypeCode) (s : State) : Run :=
  match decodeType t with
  | .type01Sensor => execType01Sensor s
  | .type02Sensor => execType02Sensor s
  | .type03Sensor => execType03Sensor s
  | .type04Configuration => execType04Configuration s
  | .type05Location => execType05Location s
  | .type06Satellite => execType06Satellite s
  | .type07Companion => execType07Companion s
  | .type08MegaSensor => execType08MegaSensor s
  | .type12MegaSensor => execType12MegaSensor s
  | .type09MegaData => execType09MegaData s
  | .type15MegaData => execType15MegaData s
  | .type0AMetrumSensor => execType0AMetrumSensor s
  | .type0BMetrumData => execType0BMetrumData s
  | .type10Mini => execType10Mini s
  | .type11Mini => execType11Mini s
  | .type13MegaNorm => execType13MegaNorm s
  | .type14MegaNorm => execType14MegaNorm s
  | _ => execTypeOtherBase t s

/-- DISPATCH: reads byte 4 as the type code and runs it (45_dispatcher.md R146). -/
def dispatch (s : State) : Run := dispatchCode (typeOf s.msg) s

end Sys2Proof.Machine
end

