-- ==== Sys2Proof/Machine/Viterbi.lean ====
section
/-! DEFINITION. The Viterbi decoder, rate 1/2, 8 states, traceback by history registers (42_viterbi.md). -/

namespace Sys2Proof.Machine

/-- The number of one bits of a 2-bit value (00_scope.md R29). -/
def hw2 (x : Symbol) : Nat := (x.extractLsb' 0 1).toNat + (x.extractLsb' 1 1).toNat

/-- `sat8` (00_scope.md R29, 42_viterbi.md R123). -/
def sat8 (n : Nat) : Metric := BitVec.ofNat 8 (min costMax n)

/-- The next trellis state on input bit `u` (42_viterbi.md R115). -/
def nextState (q : TrellisState) (u : Bit) : TrellisState := (q <<< 1) ||| u.setWidth 3

/-- The transition bit into destination `d`, its bit 0 (42_viterbi.md R116). -/
def transBit (d : TrellisState) : Bit := d.extractLsb' 0 1

/-- The first predecessor of `d` (42_viterbi.md R116, 90_conflicts.md C1). -/
def pred0 (d : TrellisState) : TrellisState := d >>> 1

/-- The second predecessor of `d` (42_viterbi.md R116, 90_conflicts.md C1). -/
def pred1 (d : TrellisState) : TrellisState := (d >>> 1) + 4

/-- The expected symbol of the transition from `q` on `u`, `ENC[(q << 1) | u]`, in the code table `e` (42_viterbi.md
R117). -/
def expected (e : CodeTable) (q : TrellisState) (u : Bit) : Symbol := (e.get q).get u

/-- The metric of destination `d` through predecessor `q`: branch metric added, saturated (42_viterbi.md R120, R123). -/
def pathMetric (e : CodeTable) (c : PerState Metric) (r : Symbol) (d q : TrellisState) : Metric :=
  sat8 ((c.get q).toNat + hw2 (r ^^^ expected e q (transBit d)))

/-- The compare of VIT.ACS: ties take the first predecessor, after saturation (42_viterbi.md R121). -/
def firstWins (e : CodeTable) (c : PerState Metric) (r : Symbol) (d : TrellisState) : Bool :=
  decide (pathMetric e c r d (pred0 d) ≤ pathMetric e c r d (pred1 d))

/-- The new metric of destination `d` (42_viterbi.md R121). -/
def acsMetric (e : CodeTable) (c : PerState Metric) (r : Symbol) (d : TrellisState) : Metric :=
  if firstWins e c r d then pathMetric e c r d (pred0 d) else pathMetric e c r d (pred1 d)

/-- A history with the transition bit appended (42_viterbi.md R122). -/
def appendBit (h : History) (u : Bit) : History := (h <<< 1) ||| u.setWidth 32

/-- The new history of destination `d` (42_viterbi.md R121). -/
def acsHistory (e : CodeTable) (c : PerState Metric) (h : PerState History) (r : Symbol) (d : TrellisState) : History :=
  appendBit (if firstWins e c r d then h.get (pred0 d) else h.get (pred1 d)) (transBit d)

/-- The metrics of the current buffer. -/
def curCost (s : State) : PerState Metric := s.cost.get s.p

/-- The histories of the current buffer. -/
def curBits (s : State) : PerState History := s.bits.get s.p

/-- VIT.ACS: reads the current buffer, writes all of the other one (42_viterbi.md R121). -/
def vitACS (r : Symbol) (s : State) : State :=
  { s with
    cost := s.cost.set (1 - s.p) (PerState.ofFn (acsMetric s.enc (curCost s) r))
    bits := s.bits.set (1 - s.p) (PerState.ofFn (acsHistory s.enc (curCost s) (curBits s) r)) }

/-- The buffer just written becomes current, and the step is counted (42_viterbi.md R129). -/
def vitAdvance (s : State) : State :=
  { s with
    p := 1 - s.p
    nbits := s.nbits + 1 }

/-- `argmin`: the least index among equal minima, by a scan with strict `<` (00_scope.md R29, decision D16). -/
def argmin (c : PerState Metric) : TrellisState :=
  [1, 2, 3, 4, 5, 6, 7].foldl (fun sel q => if c.get q < c.get sel then q else sel) 0

/-- The selected state at an emission point (42_viterbi.md R126). -/
def selectState (s : State) : TrellisState := if forcedPoint s then 0 else argmin (curCost s)

/-- Counts one appended byte. -/
def countByte (s : State) : State := { s with nout := s.nout + 1 }

/-- Writes `msg[nout]` and counts it. -/
def appendByte (v : Byte) (s : State) : Run :=
  andThen (memWrite s.nout.toNat v s) fun t => .next (countByte t)

/-- The byte an emission takes: bits 31 to 24 of the selected state's history (42_viterbi.md R127). -/
def emittedByte (s : State) : Byte := ((curBits s).get (selectState s)).extractLsb' numVHist 8

/-- VIT.EMIT (42_viterbi.md R127). -/
def vitEmit (s : State) : Run :=
  if emitDue s then appendByte (emittedByte s) s else .next s

/-- The byte VIT.FLUSH takes when `rem` bits of the history `h` are undelivered; the last byte may be partly filled
(42_viterbi.md R128). -/
def flushByte (h : History) (rem : Nat) : Byte :=
  if 8 ≤ rem then (h >>> (rem - 8)).setWidth 8 else (h <<< (8 - rem)).setWidth 8

/-- VIT.FLUSH's loop, at most `fuel` bytes: `nout` is below 36 at each and rises by one, so 36 rounds are all. -/
def vitFlushLoop (h : History) : Nat → Nat → State → Run
  | 0, _, s => .next s
  | fuel + 1, rem, s =>
    if s.nout.toNat < msgBytes then
      andThen (appendByte (flushByte h rem) s) (vitFlushLoop h fuel (rem - 8))
    else .next s

/-- VIT.FLUSH (42_viterbi.md R128). -/
def vitFlush (s : State) : Run :=
  if atFinalPoint s then
    vitFlushLoop ((curBits s).get 0) msgBytes (s.nbits.toNat - 8 * s.nout.toNat) s
  else .next s

/-- VIT.STEP (42_viterbi.md R129). -/
def vitStep (r : Symbol) (s : State) : Run :=
  andThen (vitEmit (vitAdvance (vitACS r s))) vitFlush

/-- Trellis steps, one per symbol in order. -/
def vitSteps : List Symbol → State → Run
  | [], s => .next s
  | r :: rest, s => andThen (vitStep r s) (vitSteps rest)

end Sys2Proof.Machine
end

