-- ==== Sys2Proof/Machine/Events.lean ====
section
/-! DEFINITION. The channel decoder: the sequencing operations and the meanings of the four input events
(46_channel_decoder.md). Every event returns one output event, in `out` (R179). -/

namespace Sys2Proof.Machine

/-- The message of the buffer descrambled, its CRC computed and the transmitted one read: the first three stages of
MSG.COMPLETE (46_channel_decoder.md R178, 20_memory.md R80). -/
def checkMessage (s : State) : State := crcRx (crcMsg (descrMsg s))

/-- The output of a completed message: a record when the CRC passes or the policy forwards it, else `CRC_FAIL`
(46_channel_decoder.md R178, 44_crc.md R143). -/
def reportMessage (s : State) : Run :=
  if s.forwardInvalid || crcValid s then dispatch s else .next (emit (.crcFail s.crc s.rxcrc) s)

/-- MSG.COMPLETE (46_channel_decoder.md R178). -/
def completeMessage (s : State) : Run :=
  let t := checkMessage s
  andThen (reportMessage (countMessage (crcValid t) t)) fun u => .next (resetDecodeState u)

/-- A group is consumed: the buffer is cleared and the group counted (46_channel_decoder.md R177). -/
def closeGroup (s : State) : State :=
  { s with
    grp := 0x00000000
    grpfill := 0
    ngrp := s.ngrp + 1 }

/-- GROUP.PROCESS (46_channel_decoder.md R177). -/
def groupProcess (s : State) : Run :=
  andThen (vitSteps (symbolsOf (deinterleave s.grp)) s) fun t =>
    let u := closeGroup t
    if messageComplete u then completeMessage u else .next u

/-- The bit enters the group buffer (46_channel_decoder.md R176). -/
def shiftGroup (b : Bit) (s : State) : State :=
  { s with
    grp := (s.grp <<< 1) ||| b.setWidth 32
    grpfill := s.grpfill + 1 }

/-- GROUP.ACCUM (46_channel_decoder.md R176). -/
def groupAccum (b : Bit) (s : State) : Run :=
  let t := shiftGroup b s
  if groupFull t then groupProcess t else .next t

/-- `DoFeed`, the output of the event still `NONE`: `sync` is tested on its value before the event
(46_channel_decoder.md R173, decision D5). -/
def doFeed (b : Bit) (s : State) : Run :=
  if s.sync then groupAccum b s else .next (syncMatch (syncShift b s))

/-- `DoResync` (46_channel_decoder.md R174). -/
def doResync (s : State) : State := resetDecodeState (countAbandon s)

/-- IDLE: nothing, and the output is `NONE` (46_channel_decoder.md R172); the bit is ignored (30_encoding.md R85). -/
def execIdle (_b : Bit) (s : State) : Run := .next (emit .none s)

/-- FEED b (46_channel_decoder.md R173). -/
def execFeed (b : Bit) (s : State) : Run := doFeed b (emit .none s)

/-- RESYNC (46_channel_decoder.md R174); the bit is ignored (30_encoding.md R85). -/
def execResync (_b : Bit) (s : State) : Run := .next (doResync (emit .none s))

/-- RESYNC_FEED b: the resynchronize first, then the bit (46_channel_decoder.md R175, 30_encoding.md R86). -/
def execResyncFeed (b : Bit) (s : State) : Run := doFeed b (doResync (emit .none s))

end Sys2Proof.Machine
end

