-- ==== Sys2Proof/Machine/Dispatch.lean ====
section
/-! DEFINITION. The meaning of every instruction: one arm per row of the opcode table. -/

namespace Sys2Proof.Machine

/-- Runs one instruction: an input event of the block boundary, or a type code of the dispatcher. -/
def exec (i : Instr) (s : State) : Host.Outcome State Fault Refusal :=
  match i with
  | .idle b => Sys2Proof.Machine.execIdle b s
  | .feed b => Sys2Proof.Machine.execFeed b s
  | .resync b => Sys2Proof.Machine.execResync b s
  | .resyncFeed b => Sys2Proof.Machine.execResyncFeed b s
  | .type01Sensor => Sys2Proof.Machine.execType01Sensor s
  | .type02Sensor => Sys2Proof.Machine.execType02Sensor s
  | .type03Sensor => Sys2Proof.Machine.execType03Sensor s
  | .type04Configuration => Sys2Proof.Machine.execType04Configuration s
  | .type05Location => Sys2Proof.Machine.execType05Location s
  | .type06Satellite => Sys2Proof.Machine.execType06Satellite s
  | .type07Companion => Sys2Proof.Machine.execType07Companion s
  | .type08MegaSensor => Sys2Proof.Machine.execType08MegaSensor s
  | .type12MegaSensor => Sys2Proof.Machine.execType12MegaSensor s
  | .type09MegaData => Sys2Proof.Machine.execType09MegaData s
  | .type15MegaData => Sys2Proof.Machine.execType15MegaData s
  | .type0AMetrumSensor => Sys2Proof.Machine.execType0AMetrumSensor s
  | .type0BMetrumData => Sys2Proof.Machine.execType0BMetrumData s
  | .type10Mini => Sys2Proof.Machine.execType10Mini s
  | .type11Mini => Sys2Proof.Machine.execType11Mini s
  | .type13MegaNorm => Sys2Proof.Machine.execType13MegaNorm s
  | .type14MegaNorm => Sys2Proof.Machine.execType14MegaNorm s
  | .typeOtherBase t => Sys2Proof.Machine.execTypeOtherBase t s

end Sys2Proof.Machine
end

