-- ==== Sys2Proof/Machine/Load.lean ====
section
/-! DEFINITION. Placing one instruction where the next step runs it. An event word is the host's next delivery. A type
code is no word of the block's boundary: it is byte 4 of a message, and runs inside the event that completes the message
(46_channel_decoder.md R178). So the decoder is placed one bit before the end of a clean frame whose message carries the
type code: the state that 591 of the frame's 592 bits leave, metrics apart, with the last bit as the next delivery. -/

namespace Sys2Proof.Machine

/-- Delivers an event word as the next input event, with the timestamp input as it stands. -/
def deliver (w : EventWord) (s : State) : State := { s with inputs := ⟨w, s.ts⟩ :: s.inputs }

/-- A 32-byte message body that is zero but for its type code. -/
def bodyWithType (t : TypeCode) : List Byte :=
  (List.range crcCover).map fun i => if i = 4 then t else 0

/-- A body followed by its CRC, big-endian (20_memory.md R68). -/
def withCrc (body : List Byte) : List Byte :=
  let c := crcBytes crcInit body
  body ++ [c.extractLsb' 8 8, c.extractLsb' 0 8]

/-- XORs bytes with the whitening sequence from its start (43_descrambler.md R137). -/
def whiten (xs : List Byte) : List Byte := List.zipWith (· ^^^ ·) xs (whitening xs.length lfsrInit)

/-- The memory that holds some bytes from address `a` on and the reset value elsewhere. -/
def memoryOf : Nat → List Byte → Memory
  | _, [] => []
  | a, x :: rest => if x = unlistedByte then memoryOf (a + 1) rest else (a, x) :: memoryOf (a + 1) rest

/-- Sixteen symbols in one word, symbol 0 in bits 31 and 30 (30_encoding.md R90). -/
def packSymbols (xs : List Symbol) : Group := xs.foldl (fun acc x => (acc <<< 2) ||| x.setWidth 32) 0

/-- The last group of a clean frame on the wire: its sixteen symbols are those of zero bits from trellis state 0
(95_test_vectors.md section 2); zero with the default code table. -/
def lastGroup (e : CodeTable) : Group :=
  deinterleave (packSymbols (List.replicate symsPerGroup (expected e 0 0)))

/-- The decoder one bit before the end of the frame of the raw message whose first 34 bytes are `raw` and whose last two
are zero: seventeen groups and 31 bits of the last one consumed, 31 bytes appended, and raw bytes 30 to 33 in the history of trellis
state 0 (42_viterbi.md R130). -/
def almostComplete (raw : List Byte) (s : State) : State :=
  { resetDecodeState s with
    sync := true
    reg := syncWord
    grp := lastGroup s.enc >>> 1
    grpfill := 31
    ngrp := 17
    nbits := 272
    nout := 31
    msg := memoryOf 0 (raw.take 31)
    bits := ⟨⟨raw.getD 30 0 ++ raw.getD 31 0 ++ raw.getD 32 0 ++ raw.getD 33 0, 0, 0, 0, 0, 0, 0, 0⟩, PerState.all 0⟩ }

/-- Places a table word; a word that the decoder refuses changes nothing. -/
def loadWord (nbits w : Nat) (s : State) : State :=
  match decodeTableWord nbits w with
  | none => s
  | some i =>
    match encode i with
    | .event e => deliver e s
    | .typeCode t =>
      deliver (eventWord 0 1 ((lastGroup s.enc).extractLsb' 0 1)) (almostComplete (whiten (withCrc (bodyWithType t))) s)

end Sys2Proof.Machine
end

