-- ==== Sys2Proof/Machine/Step.lean ====
section
/-! DEFINITION. One step: the next input event, run to completion (46_channel_decoder.md R171, 20_memory.md R78). -/

namespace Sys2Proof.Machine

/-- One input event: the next delivery of the host is taken and run; with nothing delivered the event is IDLE. -/
def step (s : State) : Host.Outcome State Fault Refusal :=
  exec (fetch s).1 (fetch s).2

/-- `s` with a table word placed so that the very next step runs it: an event word as the host's next delivery, a type
code in a message that the next bit completes (log entries 12 and 13). -/
def State.withFetchWord (s : State) (nbits w : Nat) : State := loadWord nbits w s

end Sys2Proof.Machine
end

