-- ==== Sys2Proof/Machine/Batch.lean ====
section
/-! DEFINITION. Sequences of input events with their outputs: what a host gets that feeds a buffer of bits
(30_encoding.md R87, 46_channel_decoder.md R182; decision D31). A batch is no event of the block: it is its events in
order, and its outputs are their outputs other than `NONE`, in order (46_channel_decoder.md R179). -/

namespace Sys2Proof.Machine

/-- What an event contributes to the sequence of outputs: nothing if it returned `NONE` (46_channel_decoder.md R179). -/
def reported : OutEvent → List OutEvent
  | .none => []
  | .record r => [.record r]
  | .crcFail crcCalc crcRx => [.crcFail crcCalc crcRx]

/-- One input event given to the block at once, ahead of whatever the host has still to deliver: the block's function from
state, event and timestamp to state and output (46_channel_decoder.md R171). -/
def processEvent (e : InputEvent) (s : State) : Run := step { s with inputs := e :: s.inputs }

/-- Input events in order: the outputs other than `NONE`, and the outcome. An event that stops ends the sequence with the
outputs before it. -/
def runEvents : List InputEvent → State → List OutEvent × Run
  | [], s => ([], .next s)
  | e :: rest, s =>
    match processEvent e s with
    | .next t => (reported t.out ++ (runEvents rest t).1, (runEvents rest t).2)
    | .fault x => ([], .fault x)
    | .refused x => ([], .refused x)

/-- One item of a host's buffer: a bit, its timestamp input, and whether it carries a resynchronize mark
(46_channel_decoder.md R182). -/
structure BatchItem where
  mark : Bool
  bit : Bit
  ts : BitVec Config.tsW
  deriving DecidableEq, Repr

/-- The event of an item: FEED, or RESYNC_FEED under a mark, which is one of the two ways R182 names. -/
def itemEvent (x : BatchItem) : InputEvent := ⟨eventWord (if x.mark then 1 else 0) 1 x.bit, x.ts⟩

/-- A batch: the events of its items, in order (30_encoding.md R87, 46_channel_decoder.md R182). -/
def runBatch (items : List BatchItem) (s : State) : List OutEvent × Run := runEvents (items.map itemEvent) s

end Sys2Proof.Machine
end

