-- ==== Sys2Proof/Safety.lean ====
section
/-! DEFINITION. The terms in which claims about runs are made: the states between input events (10_state.md R50), which
states an output can tell apart (R49), the trace notation (30_encoding.md R98, R99), and the reference encoder
(95_test_vectors.md section 2), which is a construct for claims and tests and no part of the hardware (00_scope.md R8). -/

namespace Sys2Proof.Machine

/-- Every field of the decode state but `sync` and `reg` has its reset value (10_state.md R50 (a)). -/
abbrev State.Cleared (s : State) : Prop :=
  s.grp = 0 ∧ s.grpfill = 0 ∧ s.ngrp = 0 ∧ s.cost = resetCost ∧ s.bits = resetBits ∧ s.p = 0 ∧ s.nbits = 0 ∧
  s.nout = 0 ∧ s.msg = [] ∧ s.lfsr = lfsrInit ∧ s.crc = crcInit ∧ s.rxcrc = 0

/-- The bytes appended to `msg` after `g` groups of a message (10_state.md R50 (c)). -/
def bytesAfterGroups (g : Nat) : Nat := if g ≤ 1 then 0 else 2 * g - 3

/-- What holds whenever no input event is being processed: 10_state.md R50 (a) to (f), the sync register as R105 of
40_bitsync.md leaves it while locked, and the message buffer as R69 of 20_memory.md describes it: canonical, and zero
from `nout` on. -/
abbrev State.Settled (s : State) : Prop :=
  (s.sync = false → s.Cleared) ∧
  (s.sync = true → s.reg = syncWord) ∧
  (s.grpfill.toNat ≤ 31 ∧ s.ngrp.toNat ≤ 17 ∧ s.nbits.toNat = 16 * s.ngrp.toNat) ∧
  s.nout.toNat = bytesAfterGroups s.ngrp.toNat ∧
  (s.lfsr = lfsrInit ∧ s.crc = crcInit ∧ s.rxcrc = 0) ∧
  s.p = 0 ∧
  s.grp.toNat < 2 ^ s.grpfill.toNat ∧
  s.msg.wf = true ∧
  ∀ c ∈ s.msg, c.1 < s.nout.toNat

/-- Two states that agree in everything but the non-current Viterbi buffer (10_state.md R49). -/
def SameButStale (s t : State) : Prop :=
  curCost s = curCost t ∧ curBits s = curBits t ∧ t = { s with cost := t.cost, bits := t.bits }

/-- Two states at the same place of the sequence: the tuple that does the work of a program counter (10_state.md R51). -/
def SamePlace (s t : State) : Prop :=
  s.sync = t.sync ∧ s.grpfill = t.grpfill ∧ s.ngrp = t.ngrp ∧ s.nbits = t.nbits ∧ s.nout = t.nout

/-- The decode state of `t` is the one `PowerOn` leaves (10_state.md R62, R63). -/
def State.IsHuntingAfresh (t : State) : Prop := t.sync = false ∧ t.reg = 0 ∧ t.Cleared

/-- The state that some bits leave, each fed as a FEED instruction in order. A batch with its outputs and timestamps is
`runBatch` of Machine/Batch.lean (30_encoding.md R87). -/
def feedBits : List Bit → State → Run
  | [], s => .next s
  | b :: rest, s => andThen (exec (.feed b) s) (feedBits rest)

/-! ### The reference encoder (95_test_vectors.md section 2) -/

/-- The bits of a word, most significant first (20_memory.md R73). -/
def bitsOf (n : Nat) (w : BitVec n) : List Bit := (List.range n).map fun i => w.extractLsb' (n - 1 - i) 1

/-- `MakeMessage`: a body of 32 bytes, its CRC, and the padding that whitens to zero. -/
def makeMessage (body : List Byte) : List Byte := withCrc body ++ [0x93, 0xDF]

/-- The convolutional code of a code table: the symbols of some input bits from a trellis state on (42_viterbi.md R117). -/
def convolve (e : CodeTable) : TrellisState → List Bit → List Symbol
  | _, [] => []
  | q, u :: rest => expected e q u :: convolve e (nextState q u) rest

/-- A code table in which the input bit always shows: the two symbols of each trellis state differ, as 42_viterbi.md R133
says of the default table. -/
abbrev Distinguishes (e : CodeTable) : Prop := ∀ q : TrellisState, expected e q 0 ≠ expected e q 1

/-- The encoder's state after some input bits (42_viterbi.md R115). -/
def encoderState (q : TrellisState) (us : List Bit) : TrellisState := us.foldl nextState q

/-- The first `n` groups of a symbol sequence as they go on the wire; the interleaver is the deinterleaver
(41_deinterleaver.md R112). -/
def wireGroups : Nat → List Symbol → List Group
  | 0, _ => []
  | n + 1, xs => deinterleave (packSymbols (xs.take symsPerGroup)) :: wireGroups n (xs.drop symsPerGroup)

/-- `Encode`: the 576 channel bits of a 36-byte message, in the code of a table. -/
def encodeMessage (e : CodeTable) (m : List Byte) : List Bit :=
  (wireGroups groupsPerMsg.toNat (convolve e 0 ((whiten m).flatMap (bitsOf 8)))).flatMap (bitsOf 32)

/-! ### The trace notation -/

/-- A token of the trace notation (30_encoding.md R98) or one of its pseudo-tokens (R99). -/
inductive Token where
  /-- `0` or `1`. -/
  | bit (b : Bit)
  /-- `R`. -/
  | resync
  /-- `RF0` or `RF1`. -/
  | resyncFeed (b : Bit)
  /-- `.`. -/
  | dot
  /-- `SYNC`. -/
  | sync
  /-- `HEX(b0 b1 ...)`. -/
  | hex (bytes : List Byte)
  /-- `ENC(m)`. -/
  | enc (m : List Byte)
  /-- `FRAME(m)`. -/
  | frame (m : List Byte)
  /-- `ZEROS(n)`. -/
  | zeros (n : Nat)
  /-- `ONES(n)`. -/
  | ones (n : Nat)
  deriving DecidableEq, Repr

/-- The event words of FEED events. -/
def feedWords (bs : List Bit) : List EventWord := bs.map (eventWord 0 1)

/-- The sixteen bits of the sync word (20_memory.md R73). -/
def syncBits : List Bit := bitsOf 16 syncWord

/-- The event words a token stands for, in the code of a table (30_encoding.md R98, R99). -/
def Token.words (e : CodeTable) : Token → List EventWord
  | .bit b => feedWords [b]
  | .resync => [eventWord 1 0 0]
  | .resyncFeed b => [eventWord 1 1 b]
  | .dot => [eventWord 0 0 0]
  | .sync => feedWords syncBits
  | .hex bytes => feedWords (bytes.flatMap (bitsOf 8))
  | .enc m => feedWords (encodeMessage e m)
  | .frame m => feedWords (syncBits ++ encodeMessage e m)
  | .zeros n => feedWords (List.replicate n 0)
  | .ones n => feedWords (List.replicate n 1)

/-- The event words of a trace. -/
def traceWords (e : CodeTable) (tokens : List Token) : List EventWord := tokens.flatMap (Token.words e)

/-- Deliveries that carry the event words of a trace, whatever their timestamps. -/
def Delivers (e : CodeTable) (events : List InputEvent) (tokens : List Token) : Prop :=
  events.map (·.word) = traceWords e tokens

end Sys2Proof.Machine
end

