-- ==== Sys2Proof/Certificates/Slice0/Obligations.lean ====
section
/-! DEFINITION. The statements for the provers. Where a statement rests on a decision of the spec (an id D of
92_eei_decisions.md) or on a choice of the model (a log entry), its docstring says so. -/

open Sys2Proof Sys2Proof.Machine

/-- The record of the descrambled message in the buffer, field by field (45_dispatcher.md R146, R147; 30_encoding.md
R96). -/
def Sys2Proof.Claims.recordIn (k : Kind) (t : TypeCode) (s : State) : Record :=
  { valid := decide (s.crc = s.rxcrc), kind := k, type := t,
    serial := s.msg.byteAt 1 ++ s.msg.byteAt 0, rtime := s.msg.byteAt 3 ++ s.msg.byteAt 2,
    freq := s.freq, ts := s.ts, msg := (List.range 36).map fun a => s.msg.byteAt a }

/-- How many of the two bits of `x` and `y` differ (42_viterbi.md R120). -/
def Sys2Proof.Claims.hamming (x y : Symbol) : Nat :=
  (if x.getLsbD 0 = y.getLsbD 0 then 0 else 1) + (if x.getLsbD 1 = y.getLsbD 1 then 0 else 1)

/-- The kind code of a type code as 45_dispatcher.md R148 lists it. -/
def Sys2Proof.Claims.listedKindCode (t : TypeCode) : Nat :=
  if t ∈ ([0x01, 0x02, 0x03] : List TypeCode) then 1 else if t = 0x04 then 2 else if t = 0x05 then 3
  else if t = 0x06 then 4 else if t = 0x07 then 5 else if t ∈ ([0x08, 0x12] : List TypeCode) then 6
  else if t ∈ ([0x09, 0x15] : List TypeCode) then 7 else if t = 0x0A then 8 else if t = 0x0B then 9
  else if t ∈ ([0x10, 0x11] : List TypeCode) then 10 else if t ∈ ([0x13, 0x14] : List TypeCode) then 11 else 0

/-- The 36 whitening bytes as 43_descrambler.md R137 tabulates them. -/
def Sys2Proof.Claims.whiteningTable : List Byte :=
  [0xFF, 0xE1, 0x1D, 0x9A, 0xED, 0x85, 0x33, 0x24, 0xEA, 0x7A, 0xD2, 0x39, 0x70, 0x97, 0x57, 0x0A, 0x54, 0x7D] ++
  [0x2D, 0xD8, 0x6D, 0x0D, 0xBA, 0x8F, 0x67, 0x59, 0xC7, 0xA2, 0xBF, 0x34, 0xCA, 0x18, 0x30, 0x53, 0x93, 0xDF]

/-- Two outcomes of one shape whose next states are related. -/
def Sys2Proof.Claims.AlikeUpTo (related : State → State → Prop) : Run → Run → Prop
  | .next s, .next t => related s t
  | .fault e, .fault e' => e = e'
  | .refused e, .refused e' => e = e'
  | _, _ => False

/-- The state a clean frame of `body` leaves when it starts from the hunting state `s`: one more message attempted and
passed, and the record of the message that was encoded (46_channel_decoder.md R183). -/
def Sys2Proof.Claims.afterCleanFrame (body : List Byte) (last : InputEvent) (rest : List InputEvent) (s : State) : State :=
  { s with
    cntAttempt := s.cntAttempt + 1
    cntPass := s.cntPass + 1
    ts := last.ts
    inputs := rest
    out := .record
      { valid := true, kind := kindOf (body.getD 4 0), type := body.getD 4 0,
        serial := body.getD 1 0 ++ body.getD 0 0, rtime := body.getD 3 0 ++ body.getD 2 0,
        freq := s.freq, ts := last.ts, msg := makeMessage body } }

/-! ### Encoding, and the step -/

/-- A step takes the host's next delivery and runs the event it decodes to; with nothing delivered it runs IDLE. The
queue of deliveries and its empty case are the model's (log entry 4); 46_channel_decoder.md R171, 20_memory.md R78. -/
def Obligations.StepRunsTheDeliveredEvent : Prop :=
  (∀ (s : State) (e : InputEvent) (rest : List InputEvent), s.inputs = e :: rest →
    step s = exec (decode (.event e.word)) { s with inputs := rest, ts := if eventValid e.word then e.ts else s.ts }) ∧
  (∀ s : State, s.inputs = [] → step s = exec (.idle 0) s)

/-- 46_channel_decoder.md R171: for every event word, the resynchronize if its bit says so, then the feed if its bit
says so; without the feed the output is `NONE`. -/
def Obligations.EventWordsResyncThenFeed : Prop :=
  ∀ (w : EventWord) (s : State),
    exec (decode (.event w)) s =
      (let t := if w.getLsbD 2 then doResync (emit .none s) else emit .none s
       if w.getLsbD 1 then doFeed (w.extractLsb' 0 1) t else .next t)

/-- Decoding and encoding agree, both ways: every well-formed instruction is read back from its word, and every word of
either format is the encoding of the well-formed instruction it decodes to. -/
def Obligations.DecodeAndEncodeAgree : Prop :=
  (∀ i : Instr, i.wellFormed = true → decode (encode i) = i) ∧
  (∀ c : Coded, (decode c).wellFormed = true ∧ encode (decode c) = c)

/-- The rows of the opcode table that fix bits do not overlap within a format, every word fits the row it is decoded
by, and the fallback row is used only where no other row of the format fits. -/
def Obligations.TableRowsDoNotOverlap : Prop :=
  (∀ (c : Coded) (i j : Instr), i.row.mask ≠ 0 → j.row.mask ≠ 0 → i.row.fits c = true → j.row.fits c = true →
    i.row = j.row) ∧
  (∀ c : Coded, (decode c).row.fits c = true) ∧
  (∀ (c : Coded) (i : Instr), i.row.mask ≠ 0 → i.row.fits c = true → (decode c).row = i.row)

/-- Words written out from 30_encoding.md R83, R84 and R93 decode to the instructions they stand for. -/
def Obligations.WrittenOutWordsDecode : Prop :=
  decode (.event 0b000) = .idle 0 ∧ decode (.event 0b011) = .feed 1 ∧ decode (.event 0b101) = .resync 1 ∧
  decode (.event 0b110) = .resyncFeed 0 ∧ decode (.typeCode 0b00000001) = .type01Sensor ∧
  decode (.typeCode 0b00010010) = .type12MegaSensor ∧ decode (.typeCode 0b00001011) = .type0BMetrumData ∧
  decode (.typeCode 0b00010100) = .type14MegaNorm ∧ decode (.typeCode 0b00001100) = .typeOtherBase 0x0C

/-! ### The input events -/

/-- IDLE changes nothing and returns `NONE` (46_channel_decoder.md R172; the event exists by decision D2). -/
def Obligations.IdleChangesNothing : Prop :=
  ∀ (b : Bit) (s : State), exec (.idle b) s = .next { s with out := .none }

/-- Without a delivered bit the bit field is ignored: two spellings of one event (30_encoding.md R85, decision D3). -/
def Obligations.UndeliveredBitIsIgnored : Prop :=
  ∀ (b c : Bit) (s : State),
    exec (decode (.event (eventWord 0 0 b))) s = exec (decode (.event (eventWord 0 0 c))) s ∧
    exec (decode (.event (eventWord 1 0 b))) s = exec (decode (.event (eventWord 1 0 c))) s

/-- A bit fed while hunting shifts the sync register and is followed by the match, on all sixteen bits
(40_bitsync.md R102, R103); nothing else changes, a miss included (R107). That the bit which completes the sync word is not
passed to the group buffer is decision D5 (46_channel_decoder.md R173; log entry 17). -/
def Obligations.HuntingFeedShiftsAndMatches : Prop :=
  ∀ (b : Bit) (s : State), s.sync = false →
    exec (.feed b) s = .next { s with
      reg := (s.reg <<< 1) ||| b.setWidth 16
      sync := decide ((s.reg <<< 1) ||| b.setWidth 16 = 0xD391)
      out := .none }

/-- A bit fed while locked goes to the group buffer and nowhere else, while the group is not full: the sync register
stands still (40_bitsync.md R105, decision D4; 46_channel_decoder.md R176, decision D6). -/
def Obligations.LockedFeedFillsTheGroup : Prop :=
  ∀ (b : Bit) (s : State), s.sync = true → s.grpfill ≠ 31 →
    exec (.feed b) s = .next { s with
      grp := (s.grp <<< 1) ||| b.setWidth 32
      grpfill := s.grpfill + 1
      out := .none }

/-- The bit that completes a group before the eighteenth: sixteen trellis steps over the deinterleaved group, the group
buffer cleared, the group counted, the bytes of the emission schedule appended at `nout` and no other byte touched, and
everything else as it was (46_channel_decoder.md R177; 42_viterbi.md R130, a consequence the spec derives). -/
def Obligations.GroupEndRunsSixteenSteps : Prop :=
  ∀ (b : Bit) (s : State), s.Settled → s.sync = true → s.grpfill = 31 → s.ngrp.toNat < 17 →
    ∃ u : State,
      vitSteps (symbolsOf (deinterleave ((s.grp <<< 1) ||| b.setWidth 32))) (shiftGroup b (emit .none s)) = .next u ∧
      exec (.feed b) s = .next { s with
        grp := 0
        grpfill := 0
        ngrp := s.ngrp + 1
        cost := u.cost
        bits := u.bits
        nbits := s.nbits + 16
        nout := u.nout
        msg := u.msg
        out := .none } ∧
      u.nout.toNat = bytesAfterGroups (s.ngrp.toNat + 1) ∧
      (∀ a : Nat, a < s.nout.toNat ∨ u.nout.toNat ≤ a → u.msg.byteAt a = s.msg.byteAt a)

/-- The 576th data bit of a message: sixteen trellis steps leave 36 raw bytes; descrambled and checked, the message is
counted and reported by the CRC verdict and the policy; the decode state is the reset one (46_channel_decoder.md R178,
decisions D9, D22 and D27; 44_crc.md R143). -/
def Obligations.LastBitCompletesTheMessage : Prop :=
  ∀ (b : Bit) (s : State), s.Settled → s.sync = true → s.grpfill = 31 → s.ngrp = 17 →
    ∃ u : State,
      vitSteps (symbolsOf (deinterleave ((s.grp <<< 1) ||| b.setWidth 32))) (shiftGroup b (emit .none s)) = .next u ∧
      u.nbits = 288 ∧ u.nout = 36 ∧
      (let d := checkMessage u
       exec (.feed b) s = .next { State.powerOn s.freq s.forwardInvalid s.enc with
        cntAttempt := s.cntAttempt + 1
        cntPass := if d.crc = d.rxcrc then s.cntPass + 1 else s.cntPass
        cntAbandon := s.cntAbandon
        ts := s.ts
        inputs := s.inputs
        out := if d.crc = d.rxcrc ∨ s.forwardInvalid = true
          then .record (Claims.recordIn (kindOf (d.msg.byteAt 4)) (d.msg.byteAt 4) d)
          else .crcFail d.crc d.rxcrc })

/-- RESYNC in any state: the reset decode state, one more abandoned message if one was being decoded, `NONE`; the
configuration and the other counters stand (46_channel_decoder.md R174; the counter is decision D28, the cleared register
while hunting D30, the reset values the source does not give D12, D19 and D29). -/
def Obligations.ResyncAbandonsInAnyState : Prop :=
  ∀ (b : Bit) (s : State),
    exec (.resync b) s = .next { State.powerOn s.freq s.forwardInvalid s.enc with
      cntAttempt := s.cntAttempt
      cntPass := s.cntPass
      cntAbandon := if s.sync = true then s.cntAbandon + 1 else s.cntAbandon
      ts := s.ts
      inputs := s.inputs }

/-- RESYNC_FEED in any state: the resynchronize first, then the bit enters the cleared sync register; the output is
always `NONE`, the block hunts, and the bit is not lost (46_channel_decoder.md R175). The order is decision D2, the counter
D28, the cleared register while hunting D30, the reset values the source does not give D12, D19 and D29 (log entry 17). -/
def Obligations.ResyncFeedHuntsFromTheBit : Prop :=
  ∀ (b : Bit) (s : State),
    exec (.resyncFeed b) s = .next { State.powerOn s.freq s.forwardInvalid s.enc with
      reg := b.setWidth 16
      cntAttempt := s.cntAttempt
      cntPass := s.cntPass
      cntAbandon := if s.sync = true then s.cntAbandon + 1 else s.cntAbandon
      ts := s.ts
      inputs := s.inputs }

/-- A second RESYNC directly after a first changes nothing that the first did not (46_channel_decoder.md R174 (c),
60_exceptions.md R196). -/
def Obligations.SecondResyncChangesNothing : Prop :=
  ∀ (b c : Bit) (s t : State), exec (.resync b) s = .next t → exec (.resync c) t = .next t

/-- From a cleared sync register, the bits fed lock the block just when the last sixteen of them are the sync word, and
until then the register holds the latest bits and nothing else moves (40_bitsync.md R108 (a), which the spec derives;
R104). The hypothesis says that no match stands before the end of the bits. -/
def Obligations.LockNeedsTheWholeSyncWord : Prop :=
  ∀ (bs : List Bit) (s : State), s.sync = false → s.reg = 0 →
    (∀ pre post : List Bit, bs = pre ++ syncBits ++ post → post = []) →
    ∃ t : State, feedBits bs s = .next t ∧
      (t.sync = true ↔ ∃ pre : List Bit, bs = pre ++ syncBits) ∧
      (∀ n : Nat, n < 16 → t.reg.extractLsb' n 1 = bs.reverse.getD n 0) ∧
      t = { s with sync := t.sync, reg := t.reg, out := t.out }

/-! ### The dispatcher -/

/-- Every listed type code's instruction, in any state, emits the record of the message in the buffer under its kind and
code, and changes nothing else (45_dispatcher.md section 2). The record's form is decision D23; that the verdict is taken
where the record is built, in any state, is log entry 15 (DEDUCED). -/
def Obligations.ListedTypesEmitTheirRecords : Prop :=
  ∀ s : State,
    exec .type01Sensor s = .next { s with out := .record (Claims.recordIn .sensor 0x01 s) } ∧
    exec .type02Sensor s = .next { s with out := .record (Claims.recordIn .sensor 0x02 s) } ∧
    exec .type03Sensor s = .next { s with out := .record (Claims.recordIn .sensor 0x03 s) } ∧
    exec .type04Configuration s = .next { s with out := .record (Claims.recordIn .configuration 0x04 s) } ∧
    exec .type05Location s = .next { s with out := .record (Claims.recordIn .location 0x05 s) } ∧
    exec .type06Satellite s = .next { s with out := .record (Claims.recordIn .satellite 0x06 s) } ∧
    exec .type07Companion s = .next { s with out := .record (Claims.recordIn .companion 0x07 s) } ∧
    exec .type08MegaSensor s = .next { s with out := .record (Claims.recordIn .megaSensor 0x08 s) } ∧
    exec .type12MegaSensor s = .next { s with out := .record (Claims.recordIn .megaSensor 0x12 s) } ∧
    exec .type09MegaData s = .next { s with out := .record (Claims.recordIn .megaData 0x09 s) } ∧
    exec .type15MegaData s = .next { s with out := .record (Claims.recordIn .megaData 0x15 s) } ∧
    exec .type0AMetrumSensor s = .next { s with out := .record (Claims.recordIn .metrumSensor 0x0A s) } ∧
    exec .type0BMetrumData s = .next { s with out := .record (Claims.recordIn .metrumData 0x0B s) } ∧
    exec .type10Mini s = .next { s with out := .record (Claims.recordIn .mini 0x10 s) } ∧
    exec .type11Mini s = .next { s with out := .record (Claims.recordIn .mini 0x11 s) } ∧
    exec .type13MegaNorm s = .next { s with out := .record (Claims.recordIn .megaNorm 0x13 s) } ∧
    exec .type14MegaNorm s = .next { s with out := .record (Claims.recordIn .megaNorm 0x14 s) }

/-- The fallback's record is of the Base kind and still carries the code, and every type code that is not listed decodes
to the fallback (45_dispatcher.md R166). The record's form is decision D23; that the verdict is taken where the record is
built, in any state, is log entry 15 (DEDUCED). -/
def Obligations.UnlistedTypesEmitBaseRecords : Prop :=
  (∀ (t : TypeCode) (s : State),
    exec (.typeOtherBase t) s = .next { s with out := .record (Claims.recordIn .base t s) }) ∧
  (∀ t : TypeCode, t = 0x00 ∨ (0x0C ≤ t ∧ t ≤ 0x0F) ∨ 0x16 ≤ t → decode (.typeCode t) = .typeOtherBase t)

/-- For every one of the 256 type codes the instruction it decodes to answers a next state with a record of the kind
that the lookup table lists (45_dispatcher.md R147, R148). The kind numbers are decision D24 and the record's form D23; that
the verdict is taken where the record is built, in any state, and that nothing else changes is log entry 15 (DEDUCED). -/
def Obligations.EveryTypeCodeGivesItsListedKind : Prop :=
  ∀ (t : TypeCode) (s : State), ∃ k : Kind,
    exec (decode (.typeCode t)) s = .next { s with out := .record (Claims.recordIn k t s) } ∧
    (kindCode k).toNat = Claims.listedKindCode t ∧ kindOf t = k

/-- The dispatcher reads byte 4 of the buffer and runs the instruction that it decodes to (45_dispatcher.md R146). -/
def Obligations.DispatcherRunsTheDecodedTypeCode : Prop :=
  ∀ s : State, dispatch s = exec (decode (.typeCode (s.msg.byteAt 4))) s

/-- Kinds are numbered 0 to 11, each by its own code (30_encoding.md R95, decision D24). -/
def Obligations.KindCodesAreDistinct : Prop :=
  (∀ k : Kind, (kindCode k).toNat ≤ 11) ∧ (∀ k l : Kind, kindCode k = kindCode l → k = l)

/-! ### Deinterleaver -/

/-- Output symbol `k` is the source symbol at offset `(k / 4) * 2 + (k % 4) * 8` (41_deinterleaver.md R109, R110; the end
the offset counts from is decision D7). -/
def Obligations.DeinterleavedSymbolsComeFromTheirOffsets : Prop :=
  ∀ (w : Group) (k : Nat), k < 16 →
    symbolAt (deinterleave w) k = (w >>> (k / 4 * 2 + k % 4 * 8)).extractLsb' 0 2

/-- The deinterleaver is its own inverse (41_deinterleaver.md R112, which the spec derives). -/
def Obligations.DeinterleaveTwiceIsIdentity : Prop :=
  ∀ w : Group, deinterleave (deinterleave w) = w

/-! ### Viterbi decoder -/

/-- Any code table is read at index `(q << 1) | u` (42_viterbi.md R117, decision D11). The default one is the formula of
R118, the two expected symbols of one destination are complements, and the input bit always shows; construction takes it
unless it is given another. The spec takes the default from general knowledge: log entry 5; that the table stands with the
configuration is log entry 20. -/
def Obligations.ExpectedSymbolsFollowTheGenerators : Prop :=
  (∀ (xs : List Symbol) (q : TrellisState) (u : Bit), expected (tableOf xs) q u = xs.getD (q ++ u).toNat 0) ∧
  (∀ (q : TrellisState) (u : Bit),
    expected encTable q u = (u ^^^ q.extractLsb' 1 1 ^^^ q.extractLsb' 2 1) ++
      (u ^^^ q.extractLsb' 0 1 ^^^ q.extractLsb' 1 1 ^^^ q.extractLsb' 2 1)) ∧
  (∀ d : TrellisState, expected encTable (pred1 d) (transBit d) = ~~~ expected encTable (pred0 d) (transBit d)) ∧
  Distinguishes encTable ∧
  (∀ (f : BitVec Config.freqW) (forward : Bool), (State.powerOn f forward).enc = encTable) ∧ State.reset.enc = encTable

/-- The predecessors of a destination are exactly the states whose next state on its transition bit it is
(42_viterbi.md R115, R116; decision D10). -/
def Obligations.PredecessorsAreThoseThatLand : Prop :=
  ∀ (d q : TrellisState) (u : Bit), nextState q u = d ↔ u = transBit d ∧ (q = pred0 d ∨ q = pred1 d)

/-- VIT.ACS: each destination of the other buffer gets the smaller of the two saturated sums and the history of the
winning predecessor with the transition bit appended, ties favouring the first; the current buffer and everything else
stand, for every code table (42_viterbi.md R120, R121). The predecessors are decision D10, the saturation D13 (log entry 17),
the table's index order D11. -/
def Obligations.AcsKeepsTheCheaperPath : Prop :=
  ∀ (r : Symbol) (s : State) (d : TrellisState),
    let c := s.cost.get s.p
    let h := s.bits.get s.p
    let q0 := d >>> 1
    let q1 := (d >>> 1) + 4
    let u := d.extractLsb' 0 1
    let m0 := min 255 ((c.get q0).toNat + Claims.hamming r (expected s.enc q0 u))
    let m1 := min 255 ((c.get q1).toNat + Claims.hamming r (expected s.enc q1 u))
    let t := vitACS r s
    ((t.cost.get (1 - s.p)).get d).toNat = min m0 m1 ∧
    (t.bits.get (1 - s.p)).get d = ((if m0 ≤ m1 then h.get q0 else h.get q1) <<< 1) ||| u.setWidth 32 ∧
    t.cost.get s.p = c ∧ t.bits.get s.p = h ∧ t = { s with cost := t.cost, bits := t.bits }

/-- The selected state has a least metric, and the lowest index among those that do (00_scope.md R29, decision D16). -/
def Obligations.ArgminIsTheFirstLeastMetric : Prop :=
  ∀ (c : PerState Metric) (q : TrellisState),
    c.get (argmin c) ≤ c.get q ∧ (c.get q = c.get (argmin c) → argmin c ≤ q)

/-- VIT.EMIT: when `nbits - 8 * nout = 32` the top byte of the selected state's history is appended, state 0 being
selected at the two forced points; otherwise nothing happens; a byte with no address in the buffer faults
(42_viterbi.md R127; byte offset and forced points are decisions D15 and D17; the fault is log entry 8). -/
def Obligations.EmissionAppendsTheTopByte : Prop :=
  ∀ s : State,
    let h := (s.bits.get s.p).get (if s.nbits = 280 ∨ s.nbits = 288 then 0 else argmin (s.cost.get s.p))
    (s.nbits.toNat ≠ 8 * s.nout.toNat + 32 → vitEmit s = .next s) ∧
    (s.nbits.toNat = 8 * s.nout.toNat + 32 → s.nout.toNat < 36 →
      vitEmit s = .next { s with msg := s.msg.store s.nout.toNat (h.extractLsb' 24 8), nout := s.nout + 1 }) ∧
    (s.nbits.toNat = 8 * s.nout.toNat + 32 → 36 ≤ s.nout.toNat →
      vitEmit s = .fault (.outsideBuffer s.nout.toNat))

/-- VIT.FLUSH at the end of a message whose byte 32 has just been appended: the last three bytes are the low 24 bits of
state 0's history, no other byte moves, and 36 bytes are counted; before the end nothing happens (42_viterbi.md R128,
decision D18). -/
def Obligations.FlushAppendsTheLastThreeBytes : Prop :=
  (∀ s : State, s.nbits ≠ 288 → vitFlush s = .next s) ∧
  (∀ s : State, s.nbits = 288 → s.nout = 33 → s.msg.wf = true →
    ∃ t : State, vitFlush s = .next t ∧ t = { s with msg := t.msg, nout := 36 } ∧
      t.msg.byteAt 33 = ((s.bits.get s.p).get 0).extractLsb' 16 8 ∧
      t.msg.byteAt 34 = ((s.bits.get s.p).get 0).extractLsb' 8 8 ∧
      t.msg.byteAt 35 = ((s.bits.get s.p).get 0).extractLsb' 0 8 ∧
      (∀ a : Nat, a < 33 ∨ 36 ≤ a → t.msg.byteAt a = s.msg.byteAt a))

/-- One noise-free trellis step keeps the true path: if the encoder's state alone has metric 0, then after the symbol the
encoder sends so does its next state, whose history gains the encoder's bit, for every code table in which the input bit shows
(42_viterbi.md R133, which the spec derives for the default table). -/
def Obligations.CleanStepKeepsTheTruePath : Prop :=
  ∀ (s : State) (q : TrellisState) (u : Bit), Distinguishes s.enc →
    (curCost s).get q = 0 → (∀ q' : TrellisState, q' ≠ q → (curCost s).get q' ≠ 0) →
    let t := vitAdvance (vitACS (expected s.enc q u) s)
    (curCost t).get (nextState q u) = 0 ∧
    (∀ q' : TrellisState, q' ≠ nextState q u → (curCost t).get q' ≠ 0) ∧
    (curBits t).get (nextState q u) = ((curBits s).get q <<< 1) ||| u.setWidth 32

/-- Noise-free exactness of the trellis (42_viterbi.md R133, which the spec derives for the default table): after the symbols of any input bits,
sent from state 0 to a decoder whose current metrics are the initial ones, the encoder's state is the one state of metric
0, it is the state that selection takes, and its history is the input bits. -/
def Obligations.CleanSymbolsDecodeExactly : Prop :=
  ∀ (us : List Bit) (s : State), Distinguishes s.enc → curCost s = startMetrics →
    let t := (convolve s.enc 0 us).foldl (fun x r => vitAdvance (vitACS r x)) s
    let q := encoderState 0 us
    (curCost t).get q = 0 ∧ (∀ q' : TrellisState, q' ≠ q → (curCost t).get q' ≠ 0) ∧ argmin (curCost t) = q ∧
    (curBits t).get q = us.foldl (fun (h : History) (u : Bit) => (h <<< 1) ||| u.setWidth 32) ((curBits s).get 0)

/-! ### Descrambler and CRC -/

/-- LFSR.STEP: bit 0 xor bit 5 enters at bit 8 and every other bit moves down one; 0x000 stays; from 0x1FF the states
repeat after 511 steps and not before (43_descrambler.md R134; the period is a consequence that the spec derives by running
the rule). -/
def Obligations.LfsrShiftsInTheFeedbackBit : Prop :=
  (∀ l : BitVec 9, (lfsrStep l).getLsbD 8 = (l.getLsbD 0 ^^ l.getLsbD 5)) ∧
  (∀ (l : BitVec 9) (n : Nat), n < 8 → (lfsrStep l).getLsbD n = l.getLsbD (n + 1)) ∧
  lfsrStep 0x000 = 0x000 ∧
  lfsrSteps 511 0x1FF = 0x1FF ∧ (∀ n : Nat, 0 < n → n < 511 → lfsrSteps n 0x1FF ≠ 0x1FF)

/-- DESCR.MSG XORs the tabulated whitening bytes onto bytes 0 to 35, leaves the whitening register at 0x092, and changes
nothing else (43_descrambler.md R136, and R137 which the spec derives; decision D20). -/
def Obligations.DescramblingXorsTheWhiteningTable : Prop :=
  ∀ s : State, s.lfsr = 0x1FF → s.msg.wf = true →
    (∀ a : Nat, a < 36 → (descrMsg s).msg.byteAt a = s.msg.byteAt a ^^^ Claims.whiteningTable.getD a 0) ∧
    (descrMsg s).lfsr = 0x092 ∧ descrMsg s = { s with msg := (descrMsg s).msg, lfsr := (descrMsg s).lfsr }

/-- Descrambling twice from the same seed gives the message back, for every message (43_descrambler.md R138, which the
spec derives). -/
def Obligations.DescramblingTwiceIsIdentity : Prop :=
  ∀ s : State, s.lfsr = 0x1FF → s.msg.wf = true →
    (descrMsg { descrMsg s with lfsr := 0x1FF }).msg = s.msg

/-- CRC.BIT, bit by bit: the register shifts left, and the polynomial 0x8005 is added when the bit shifted out differs
from the message bit (44_crc.md R139; the 16-bit truncation is decision D21). -/
def Obligations.CrcBitDividesByThePolynomial : Prop :=
  ∀ (c : BitVec 16) (b : Bool) (n : Nat), n < 16 →
    (crcBit c b).getLsbD n =
      ((decide (0 < n) && c.getLsbD (n - 1)) ^^ ((n == 0 || n == 2 || n == 15) && (c.getLsbD 15 ^^ b)))

/-- CRC.MSG runs over bytes 0 to 31 in ascending order, each byte's bit 7 first, and changes the accumulator alone; the
three known answers of 44_crc.md R140, which the spec derives from R139 (R145) and which need the 16-bit accumulator of
decision D21 (log entry 17). -/
def Obligations.CrcCoversBytesZeroToThirtyOne : Prop :=
  (∀ s : State, crcMsg s = { s with
    crc := (List.range 32).foldl (fun c a =>
      [7, 6, 5, 4, 3, 2, 1, 0].foldl (fun c j => crcBit c ((s.msg.byteAt a).getLsbD j)) c) s.crc }) ∧
  crcBytes 0xFFFF (List.replicate 32 0x00) = 0x8029 ∧
  crcBytes 0xFFFF ((List.range 32).map fun i => BitVec.ofNat 8 i) = 0x259D ∧
  crcBytes 0xFFFF ([0x34, 0x12, 0xB8, 0x0B, 0x01] ++ (List.range 27).map fun i => BitVec.ofNat 8 (i + 5)) = 0x2E33

/-- CRC.RX loads the big-endian bytes 32 and 33, and CRC.CHECK passes just when all sixteen bits agree
(44_crc.md R141, R142). -/
def Obligations.ReceivedCrcIsBigEndianAndComparedWhole : Prop :=
  (∀ s : State, ∃ v : BitVec 16, crcRx s = { s with rxcrc := v } ∧
    v.toNat = (s.msg.byteAt 32).toNat * 256 + (s.msg.byteAt 33).toNat) ∧
  (∀ s : State, crcValid s = true ↔ s.crc = s.rxcrc)

/-! ### The message buffer -/

/-- `MemRead` is little-endian and `MemReadBE` big-endian, each defined just when the access ends inside the buffer
(20_memory.md R70, R71, R75; that an access outside faults is log entry 8). -/
def Obligations.MemoryReadsAssembleBytes : Prop :=
  ∀ (m : Memory) (a : Nat),
    (a + 1 ≤ 36 → memRead1 m a = .ok (m.byteAt a)) ∧ (36 < a + 1 → memRead1 m a = .error (.outsideBuffer a)) ∧
    (a + 2 ≤ 36 → ∃ v, memRead2 m a = .ok v ∧ v.toNat = (m.byteAt a).toNat + 256 * (m.byteAt (a + 1)).toNat) ∧
    (36 < a + 2 → memRead2 m a = .error (.outsideBuffer a)) ∧
    (a + 4 ≤ 36 → ∃ v, memRead4 m a = .ok v ∧
      v.toNat = (m.byteAt a).toNat + 256 * (m.byteAt (a + 1)).toNat + 65536 * (m.byteAt (a + 2)).toNat +
        16777216 * (m.byteAt (a + 3)).toNat) ∧
    (36 < a + 4 → memRead4 m a = .error (.outsideBuffer a)) ∧
    (a + 2 ≤ 36 → ∃ v, memReadBE2 m a = .ok v ∧ v.toNat = 256 * (m.byteAt a).toNat + (m.byteAt (a + 1)).toNat) ∧
    (36 < a + 2 → memReadBE2 m a = .error (.outsideBuffer a))

/-- `MemStr` yields the field's bytes up to the first 0x00, or all of them (20_memory.md R77; decisions D36 and D37). -/
def Obligations.StringsStopAtTheFirstZero : Prop :=
  ∀ (m : Memory) (a n : Nat), a + n ≤ 36 →
    ∃ k : Nat, k ≤ n ∧ memStr m a n = .ok (m.bytesFrom a k) ∧ (∀ x ∈ m.bytesFrom a k, x ≠ 0x00) ∧
      (k = n ∨ m.byteAt (a + k) = 0x00)

/-- A field accessor that leaves bytes 5 to 31 is refused, and any other is read (20_memory.md R75, decision D35). -/
def Obligations.AccessorsOutsideThePayloadAreRefused : Prop :=
  ∀ (m : Memory) (f : Accessor),
    (5 ≤ f.addr → f.addr + f.size ≤ 32 → Accessor.read m f = .ok (Accessor.value m f)) ∧
    (f.addr < 5 ∨ 32 < f.addr + f.size → Accessor.read m f = .error (.outsidePayload f.addr f.size))

/-- Whatever instruction runs, in whatever state, the message buffer keeps its canonical form: rising addresses inside 0
to 35. The form is the model's representation of 20_memory.md R67 (log entry 11). -/
def Obligations.EveryInstructionKeepsTheBufferCanonical : Prop :=
  ∀ (i : Instr) (s t : State), s.msg.wf = true → exec i s = .next t → t.msg.wf = true

/-! ### Rules of the whole machine -/

/-- What construction leaves (10_state.md R64, R65): every field. The source gives the values of `sync`, `reg`, `lfsr`
and `crc`; the others are decisions D12, D19, D26, D28 and D29, and the last three fields are the model's (log entries 3
and 4). The code table is an argument too (log entry 20). -/
def Obligations.PowerOnGivesEveryFieldItsValue : Prop :=
  ∀ (f : BitVec Config.freqW) (forward : Bool) (e : CodeTable),
    let s := State.powerOn f forward e
    s.sync = false ∧ s.reg = 0x0000 ∧ s.lfsr = 0x1FF ∧ s.crc = 0xFFFF ∧
    s.grp = 0 ∧ s.grpfill = 0 ∧ s.ngrp = 0 ∧ s.p = 0 ∧ s.nbits = 0 ∧ s.nout = 0 ∧ s.rxcrc = 0 ∧
    (∀ q : TrellisState, (s.cost.get 0).get q = if q = 0 then 0 else 255) ∧
    (∀ q : TrellisState, (s.cost.get 1).get q = 0 ∧ (s.bits.get 0).get q = 0 ∧ (s.bits.get 1).get q = 0) ∧
    (∀ a : Nat, s.msg.byteAt a = 0x00) ∧
    s.freq = f ∧ s.forwardInvalid = forward ∧ s.enc = e ∧ s.cntAttempt = 0 ∧ s.cntPass = 0 ∧ s.cntAbandon = 0 ∧
    s.ts = 0 ∧ s.inputs = [] ∧ s.out = .none

/-- One reset procedure, three causes: construction, the resynchronize signal in any state, and a completed message leave
the same decode state, hunting with a cleared register (10_state.md R62, 70_reset_and_hazards.md R203; the values the
source does not give are decisions D12, D19 and D29). -/
def Obligations.ThreeCausesLeaveOneDecodeState : Prop :=
  (∀ (f : BitVec Config.freqW) (forward : Bool) (e : CodeTable), (State.powerOn f forward e).IsHuntingAfresh) ∧
  (∀ (b : Bit) (s t : State), exec (.resync b) s = .next t → t.IsHuntingAfresh) ∧
  (∀ (b : Bit) (s t : State), exec (.feed b) s = .next t → t.out ≠ .none → t.IsHuntingAfresh)

/-- Construction leaves a settled state (10_state.md R50, which the spec derives). -/
def Obligations.PowerOnIsSettled : Prop :=
  (∀ (f : BitVec Config.freqW) (forward : Bool) (e : CodeTable), (State.powerOn f forward e).Settled) ∧ State.reset.Settled

/-- The invariants of 10_state.md R50 hold after every step that they hold before. The spec derives them; the sync
register while locked (40_bitsync.md R105, decision D4) and the zeros from `nout` on (20_memory.md R69) are stated with
them. -/
def Obligations.EveryStepKeepsTheStateSettled : Prop :=
  ∀ s t : State, s.Settled → step s = .next t → t.Settled

/-- Totality (46_channel_decoder.md R185, which the spec derives): between events, no instruction faults and none is
refused, and a step answers a next state. -/
def Obligations.NothingIsRefusedBetweenEvents : Prop :=
  (∀ (i : Instr) (s : State), s.Settled → ∃ t : State, exec i s = .next t) ∧
  (∀ s : State, s.Settled → ∃ t : State, step s = .next t ∧ t.Settled)

/-- Only a FEED that delivers the last bit of the eighteenth group returns anything but `NONE`, whatever the state
(46_channel_decoder.md R179). -/
def Obligations.OnlyTheLastBitReports : Prop :=
  ∀ (i : Instr) (s t : State), i.isEvent = true → exec i s = .next t → t.out ≠ .none →
    (∃ b : Bit, i = .feed b) ∧ s.sync = true ∧ s.grpfill = 31 ∧ s.ngrp = 17

/-- The laws that tie the counters to the outputs, event by event and in every state (46_channel_decoder.md R180, which
the spec derives; the counters are decision D28). -/
def Obligations.CountersFollowTheOutputs : Prop :=
  ∀ (i : Instr) (s t : State), i.isEvent = true → exec i s = .next t →
    t.cntAttempt = (if t.out = .none then s.cntAttempt else s.cntAttempt + 1) ∧
    t.cntPass = (match t.out with
      | .record r => if r.valid then s.cntPass + 1 else s.cntPass
      | _ => s.cntPass) ∧
    t.cntAbandon = (match i with
      | .resync _ => if s.sync then s.cntAbandon + 1 else s.cntAbandon
      | .resyncFeed _ => if s.sync then s.cntAbandon + 1 else s.cntAbandon
      | _ => s.cntAbandon) ∧
    (s.forwardInvalid = false → ∀ r : Record, t.out = .record r → r.valid = true) ∧
    (s.forwardInvalid = true → ∀ x y : BitVec 16, t.out ≠ .crcFail x y)

/-- The configuration is fixed for the life of an instance (70_reset_and_hazards.md R205, decision D26), and no
instruction touches the host's deliveries or the sampled timestamp. The code table stands with the configuration (log
entry 20). -/
def Obligations.ConfigurationNeverChanges : Prop :=
  (∀ (i : Instr) (s t : State), exec i s = .next t →
    t.freq = s.freq ∧ t.forwardInvalid = s.forwardInvalid ∧ t.enc = s.enc ∧ t.inputs = s.inputs ∧ t.ts = s.ts) ∧
  (∀ s t : State, step s = .next t →
    t.freq = s.freq ∧ t.forwardInvalid = s.forwardInvalid ∧ t.enc = s.enc)

/-- No data and no history steers the sequence: of two locked states at the same place, any bits lead to the same place
(10_state.md R51, decision D1; 46_channel_decoder.md R178 (b)). -/
def Obligations.SequencingIgnoresTheData : Prop :=
  ∀ (b c : Bit) (s t : State), SamePlace s t → s.sync = true →
    Claims.AlikeUpTo SamePlace (exec (.feed b) s) (exec (.feed c) t)

/-- The non-current Viterbi buffer is invisible: two states that differ in it alone give, on every instruction, the same
outcome up to it, outputs included (10_state.md R49, which the spec derives). -/
def Obligations.StaleBufferIsInvisible : Prop :=
  ∀ (i : Instr) (s t : State), SameButStale s t → Claims.AlikeUpTo SameButStale (exec i s) (exec i t)

/-- Round trip (46_channel_decoder.md R183, which the spec derives; the encoder is the spec's construct, decision D34):
from any settled hunting state with a cleared register, the deliveries of the frame of any 32-byte body return `NONE` 591
times and then the record of exactly the message that was encoded, CRC passed, and the decoder is back where it began. -/
def Obligations.CleanFramesDecodeToTheirMessage : Prop :=
  ∀ (body : List Byte) (events rest : List InputEvent) (last : InputEvent) (s : State),
    body.length = 32 → Distinguishes s.enc → s.Settled → s.sync = false → s.reg = 0 → s.inputs = events ++ rest →
    Delivers s.enc events [.frame (makeMessage body)] → events.getLast? = some last →
    (∀ k : Nat, 0 < k → k < 592 → ∃ t : State, Host.Core.run Sys2Proof.core k s = .next t ∧ t.out = .none) ∧
    Host.Core.run Sys2Proof.core 592 s = .next (Claims.afterCleanFrame body last rest s)

/-- Resynchronize at any point (46_channel_decoder.md R184, which the spec derives): whatever state the decoder is in, a
RESYNC followed by the frame of any 32-byte body returns `NONE` 592 times and then that frame's record alone; a message
that was being decoded is counted as abandoned. -/
def Obligations.ResyncThenFrameDecodesInAnyState : Prop :=
  ∀ (body : List Byte) (events rest : List InputEvent) (last : InputEvent) (s : State),
    body.length = 32 → Distinguishes s.enc → s.inputs = events ++ rest →
    Delivers s.enc events [.resync, .frame (makeMessage body)] → events.getLast? = some last →
    (∀ k : Nat, 0 < k → k < 593 → ∃ t : State, Host.Core.run Sys2Proof.core k s = .next t ∧ t.out = .none) ∧
    Host.Core.run Sys2Proof.core 593 s = .next (Claims.afterCleanFrame body last rest
      { State.powerOn s.freq s.forwardInvalid s.enc with
        cntAttempt := s.cntAttempt
        cntPass := s.cntPass
        cntAbandon := if s.sync = true then s.cntAbandon + 1 else s.cntAbandon })

/-! ### Operations whose rule rests on the source alone -/

/-- DESCR.BYTE: byte `i` is XORed with the low eight bits of the register, bit 8 taking no part; the register then advances
eight steps, whatever the data; every other byte and every other field stands (43_descrambler.md R135). -/
def Obligations.DescramblingOneByteAdvancesEightSteps : Prop :=
  ∀ (s : State) (i : Nat), s.msg.wf = true → i < 36 →
    (descrByte s i).msg.byteAt i = s.msg.byteAt i ^^^ s.lfsr.extractLsb' 0 8 ∧
    (∀ a : Nat, a ≠ i → (descrByte s i).msg.byteAt a = s.msg.byteAt a) ∧
    (descrByte s i).lfsr = lfsrStep^[8] s.lfsr ∧
    descrByte s i = { s with msg := (descrByte s i).msg, lfsr := (descrByte s i).lfsr }

/-- The fields common to all records, whatever the kind and code: `serial` is bytes 0 and 1 little-endian, `rtime` bytes 2
and 3 little-endian, unconverted, and `freq` the configuration's value (45_dispatcher.md R147). -/
def Obligations.EveryRecordCarriesTheCommonFields : Prop :=
  ∀ (k : Kind) (t : TypeCode) (s : State),
    (recordOf k t s).serial.toNat = (s.msg.byteAt 0).toNat + 256 * (s.msg.byteAt 1).toNat ∧
    (recordOf k t s).rtime.toNat = (s.msg.byteAt 2).toNat + 256 * (s.msg.byteAt 3).toNat ∧
    (recordOf k t s).freq = s.freq

/-! ### Batches -/

/-- A batch split at any point gives the outputs and the outcome of one batch, and from a settled state every sequence of
events completes in a settled state (46_channel_decoder.md R182, R185, which the spec derives; 30_encoding.md R87, decision
D31). -/
def Obligations.BatchesSplitAnywhere : Prop :=
  (∀ (xs ys : List BatchItem) (s t : State) (os : List OutEvent), runBatch xs s = (os, .next t) →
    runBatch (xs ++ ys) s = (os ++ (runBatch ys t).1, (runBatch ys t).2)) ∧
  (∀ (events : List InputEvent) (s : State), s.Settled →
    ∃ (os : List OutEvent) (t : State), runEvents events s = (os, .next t) ∧ t.Settled)

/-- A resynchronize mark on an item may be delivered either way that 46_channel_decoder.md R182 names: RESYNC and then
FEED, or RESYNC_FEED (30_encoding.md R86, decision D2). Both report nothing and leave one state. -/
def Obligations.MarkMayBeDeliveredEitherWay : Prop :=
  ∀ (b c : Bit) (u v : BitVec Config.tsW) (s : State), ∃ t : State,
    runEvents [⟨eventWord 1 0 c, u⟩, ⟨eventWord 0 1 b, v⟩] s = ([], .next t) ∧
    runBatch [⟨true, b, v⟩] s = ([], .next t)

/-- The outputs of a sequence of events are what the counters count, from any state: attempts by all of them, passes by the
records that passed; none of them is `NONE` (46_channel_decoder.md R180, which the spec derives; 30_encoding.md R87,
decision D31; the counters are decision D28). -/
def Obligations.SequenceOutputsMatchTheCounters : Prop :=
  ∀ (events : List InputEvent) (s t : State) (os : List OutEvent), runEvents events s = (os, .next t) →
    t.cntAttempt = s.cntAttempt + BitVec.ofNat Config.cntW os.length ∧
    t.cntPass = s.cntPass + BitVec.ofNat Config.cntW (os.filter fun o =>
      match o with
      | .record r => r.valid
      | _ => false).length ∧
    OutEvent.none ∉ os

/-- A record completed in the middle of a batch is among the batch's outputs: a clean frame and whatever follows it, from
any settled hunting state with a cleared register, report the frame's record and then what follows reports from the state
the frame leaves (30_encoding.md R87, decision D31; 46_channel_decoder.md R183, which the spec derives for the default table;
decision D34). -/
def Obligations.RecordInMidBatchIsReported : Prop :=
  ∀ (body : List Byte) (frame more : List InputEvent) (last : InputEvent) (s : State),
    body.length = 32 → Distinguishes s.enc → s.Settled → s.sync = false → s.reg = 0 →
    Delivers s.enc frame [.frame (makeMessage body)] → frame.getLast? = some last →
    let t := Claims.afterCleanFrame body last s.inputs s
    runEvents (frame ++ more) s = (t.out :: (runEvents more t).1, (runEvents more t).2)
end

