-- ==== Sys2Proof/Laws/Memory.lean ====
section
/-! SUPPORT. The laws of the message buffer: a read after a write, the canonical form that every write keeps, and that
buffers of that form are equal when all their bytes are. -/

namespace Sys2Proof.Machine

/-- A form that starts at a later address starts at an earlier one too. -/
theorem Memory.wfFrom_mono {lo lo' : Nat} (h : lo' ≤ lo) : ∀ {m : Memory}, Memory.wfFrom lo m = true → Memory.wfFrom lo' m = true
  | [], _ => rfl
  | (a, x) :: rest, hm => by
    simp only [Memory.wfFrom, Bool.and_eq_true, decide_eq_true_eq] at hm ⊢
    exact ⟨⟨⟨by omega, hm.1.1.2⟩, hm.1.2⟩, hm.2⟩

/-- Below its first address a buffer reads as unlisted. -/
theorem Memory.byteAt_below {lo a : Nat} (h : a < lo) : ∀ {m : Memory}, Memory.wfFrom lo m = true → Memory.byteAt m a = unlistedByte
  | [], _ => rfl
  | (b, x) :: rest, hm => by
    simp only [Memory.wfFrom, Bool.and_eq_true, decide_eq_true_eq] at hm
    simp only [Memory.byteAt]
    rw [if_neg (by omega)]
    exact Memory.byteAt_below (lo := b + 1) (by omega) hm.2

/-- From the end of the buffer on, every address reads as unlisted. -/
theorem Memory.byteAt_outside {a : Nat} (h : msgBytes ≤ a) : ∀ {lo : Nat} {m : Memory}, Memory.wfFrom lo m = true → Memory.byteAt m a = unlistedByte
  | _, [], _ => rfl
  | lo, (b, x) :: rest, hm => by
    simp only [Memory.wfFrom, Bool.and_eq_true, decide_eq_true_eq] at hm
    simp only [Memory.byteAt]
    rw [if_neg (by omega)]
    exact Memory.byteAt_outside h hm.2

/-- A read after a write in a canonical buffer. -/
theorem Memory.byteAt_store_from (a b : Nat) (v : Byte) : ∀ {lo : Nat} {m : Memory}, Memory.wfFrom lo m = true →
    Memory.byteAt (Memory.store m a v) b = if b = a then v else Memory.byteAt m b
  | _, [], _ => by
    simp only [Memory.store, Memory.byteAt]
    by_cases hv : v = unlistedByte
    · simp [hv, Memory.byteAt]
    · simp [hv, Memory.byteAt, eq_comm]
  | lo, (c, x) :: rest, hm => by
    simp only [Memory.wfFrom, Bool.and_eq_true, decide_eq_true_eq] at hm
    have low : ∀ k, k ≤ c → Memory.byteAt rest k = unlistedByte := fun k hk =>
      Memory.byteAt_below (lo := c + 1) (by omega) hm.2
    simp only [Memory.store]
    by_cases h1 : a < c
    · rw [if_pos h1]
      by_cases hv : v = unlistedByte
      · rw [if_pos hv]
        by_cases hb : b = a
        · rw [if_pos hb, Memory.byteAt, if_neg (by omega), hv, hb]; exact low a (by omega)
        · rw [if_neg hb]
      · rw [if_neg hv, Memory.byteAt]
        by_cases hb : b = a
        · rw [if_pos hb, if_pos hb.symm]
        · rw [if_neg hb, if_neg (Ne.symm hb)]
    · rw [if_neg h1]
      by_cases h2 : a = c
      · rw [if_pos h2]
        by_cases hv : v = unlistedByte
        · rw [if_pos hv]
          by_cases hb : b = a
          · rw [if_pos hb, hv, hb, h2]; exact low c (by omega)
          · rw [if_neg hb, Memory.byteAt, if_neg (by omega)]
        · rw [if_neg hv, Memory.byteAt, Memory.byteAt]
          by_cases hb : b = a
          · rw [if_pos hb, if_pos hb.symm]
          · rw [if_neg hb, if_neg (Ne.symm hb), if_neg (by omega)]
      · rw [if_neg h2, Memory.byteAt, Memory.byteAt, Memory.byteAt_store_from a b v hm.2]
        split_ifs <;> first | rfl | omega

/-- A write keeps the canonical form, above any address it does not go below. -/
theorem Memory.store_wfFrom (a : Nat) (v : Byte) (ha : a < msgBytes) : ∀ {lo : Nat} {m : Memory}, lo ≤ a →
    Memory.wfFrom lo m = true → Memory.wfFrom lo (Memory.store m a v) = true
  | lo, [], hlo, _ => by
    simp only [Memory.store]
    by_cases hv : v = unlistedByte
    · simp [hv, Memory.wfFrom]
    · simp [hv, Memory.wfFrom, ha, hlo]
  | lo, (c, x) :: rest, hlo, hm => by
    have hm' := hm
    simp only [Memory.wfFrom, Bool.and_eq_true, decide_eq_true_eq] at hm
    simp only [Memory.store]
    by_cases h1 : a < c
    · rw [if_pos h1]
      by_cases hv : v = unlistedByte
      · rw [if_pos hv]; exact hm'
      · rw [if_neg hv]
        simp only [Memory.wfFrom, Bool.and_eq_true, decide_eq_true_eq]
        exact ⟨⟨⟨hlo, ha⟩, hv⟩, ⟨⟨⟨by omega, hm.1.1.2⟩, hm.1.2⟩, hm.2⟩⟩
    · rw [if_neg h1]
      by_cases h2 : a = c
      · rw [if_pos h2]
        by_cases hv : v = unlistedByte
        · rw [if_pos hv]; exact Memory.wfFrom_mono (by omega) hm.2
        · rw [if_neg hv]
          simp only [Memory.wfFrom, Bool.and_eq_true, decide_eq_true_eq]
          exact ⟨⟨⟨hlo, ha⟩, hv⟩, h2 ▸ hm.2⟩
      · rw [if_neg h2]
        simp only [Memory.wfFrom, Bool.and_eq_true, decide_eq_true_eq]
        exact ⟨hm.1, Memory.store_wfFrom a v ha (by omega) hm.2⟩

/-- A read after a write. -/
theorem Memory.byteAt_store {m : Memory} (hm : m.wf = true) (a b : Nat) (v : Byte) :
    (m.store a v).byteAt b = if b = a then v else m.byteAt b :=
  Memory.byteAt_store_from a b v hm

/-- Every write inside the buffer keeps the canonical form. -/
theorem Memory.store_wf {m : Memory} (hm : m.wf = true) {a : Nat} (ha : a < msgBytes) (v : Byte) :
    (m.store a v).wf = true :=
  Memory.store_wfFrom a v ha (Nat.zero_le a) hm

/-- The empty buffer is canonical. -/
theorem Memory.nil_wf : Memory.wf [] = true := rfl

/-- The head of a canonical buffer is read at its own address. -/
theorem Memory.byteAt_head (a : Nat) (x : Byte) (rest : Memory) : Memory.byteAt ((a, x) :: rest) a = x := by
  simp [Memory.byteAt]

/-- Two canonical buffers with the same bytes are equal. -/
theorem Memory.ext_from : ∀ {lo lo' : Nat} {m m' : Memory}, Memory.wfFrom lo m = true → Memory.wfFrom lo' m' = true →
    (∀ a, Memory.byteAt m a = Memory.byteAt m' a) → m = m'
  | _, _, [], [], _, _, _ => rfl
  | _, _, [], (c, x) :: rest, _, h', h => by
    simp only [Memory.wfFrom, Bool.and_eq_true, decide_eq_true_eq] at h'
    exact absurd ((Memory.byteAt_head c x rest).symm.trans (h c).symm) h'.1.2
  | _, _, (c, x) :: rest, [], h', _, h => by
    simp only [Memory.wfFrom, Bool.and_eq_true, decide_eq_true_eq] at h'
    exact absurd ((Memory.byteAt_head c x rest).symm.trans (h c)) h'.1.2
  | _, _, (c, x) :: rest, (d, y) :: rest', hm, hm', h => by
    simp only [Memory.wfFrom, Bool.and_eq_true, decide_eq_true_eq] at hm hm'
    have hc := h c
    have hd := h d
    rw [Memory.byteAt_head] at hc hd
    have cd : c = d := by
      rcases Nat.lt_trichotomy c d with hlt | heq | hgt
      · rw [Memory.byteAt, if_neg (by omega), Memory.byteAt_below (lo := d + 1) (by omega) hm'.2] at hc
        exact absurd hc hm.1.2
      · exact heq
      · rw [Memory.byteAt, if_neg (by omega), Memory.byteAt_below (lo := c + 1) (by omega) hm.2] at hd
        exact absurd hd.symm hm'.1.2
    subst cd
    rw [Memory.byteAt_head] at hc
    subst hc
    rw [Memory.ext_from hm.2 hm'.2 fun a => ?_]
    by_cases ha : a ≤ c
    · rw [Memory.byteAt_below (lo := c + 1) (by omega) hm.2, Memory.byteAt_below (lo := c + 1) (by omega) hm'.2]
    · have := h a
      rwa [Memory.byteAt, Memory.byteAt, if_neg (by omega), if_neg (by omega)] at this

/-- Two canonical buffers with the same bytes are equal. -/
theorem Memory.ext_of_bytes {m m' : Memory} (hm : m.wf = true) (hm' : m'.wf = true)
    (h : ∀ a, m.byteAt a = m'.byteAt a) : m = m' :=
  Memory.ext_from hm hm' h

end Sys2Proof.Machine
end

