-- ==== Sys2Proof/Laws/State.lean ====
section
/-! SUPPORT. One lemma per field per update: what each update of the machine writes, and that it leaves every other
field as it was. No later proof unfolds a record update. -/

namespace Sys2Proof.Machine

@[simp] theorem emit_sync (o : OutEvent) (s : State) : (emit o s).sync = s.sync := rfl
@[simp] theorem emit_reg (o : OutEvent) (s : State) : (emit o s).reg = s.reg := rfl
@[simp] theorem emit_grp (o : OutEvent) (s : State) : (emit o s).grp = s.grp := rfl
@[simp] theorem emit_grpfill (o : OutEvent) (s : State) : (emit o s).grpfill = s.grpfill := rfl
@[simp] theorem emit_ngrp (o : OutEvent) (s : State) : (emit o s).ngrp = s.ngrp := rfl
@[simp] theorem emit_cost (o : OutEvent) (s : State) : (emit o s).cost = s.cost := rfl
@[simp] theorem emit_bits (o : OutEvent) (s : State) : (emit o s).bits = s.bits := rfl
@[simp] theorem emit_p (o : OutEvent) (s : State) : (emit o s).p = s.p := rfl
@[simp] theorem emit_nbits (o : OutEvent) (s : State) : (emit o s).nbits = s.nbits := rfl
@[simp] theorem emit_nout (o : OutEvent) (s : State) : (emit o s).nout = s.nout := rfl
@[simp] theorem emit_msg (o : OutEvent) (s : State) : (emit o s).msg = s.msg := rfl
@[simp] theorem emit_lfsr (o : OutEvent) (s : State) : (emit o s).lfsr = s.lfsr := rfl
@[simp] theorem emit_crc (o : OutEvent) (s : State) : (emit o s).crc = s.crc := rfl
@[simp] theorem emit_rxcrc (o : OutEvent) (s : State) : (emit o s).rxcrc = s.rxcrc := rfl
@[simp] theorem emit_freq (o : OutEvent) (s : State) : (emit o s).freq = s.freq := rfl
@[simp] theorem emit_forwardInvalid (o : OutEvent) (s : State) : (emit o s).forwardInvalid = s.forwardInvalid := rfl
@[simp] theorem emit_enc (o : OutEvent) (s : State) : (emit o s).enc = s.enc := rfl
@[simp] theorem emit_cntAttempt (o : OutEvent) (s : State) : (emit o s).cntAttempt = s.cntAttempt := rfl
@[simp] theorem emit_cntPass (o : OutEvent) (s : State) : (emit o s).cntPass = s.cntPass := rfl
@[simp] theorem emit_cntAbandon (o : OutEvent) (s : State) : (emit o s).cntAbandon = s.cntAbandon := rfl
@[simp] theorem emit_ts (o : OutEvent) (s : State) : (emit o s).ts = s.ts := rfl
@[simp] theorem emit_inputs (o : OutEvent) (s : State) : (emit o s).inputs = s.inputs := rfl
@[simp] theorem emit_out (o : OutEvent) (s : State) : (emit o s).out = o := rfl

@[simp] theorem storeByte_sync (a : Nat) (v : Byte) (s : State) : (storeByte a v s).sync = s.sync := rfl
@[simp] theorem storeByte_reg (a : Nat) (v : Byte) (s : State) : (storeByte a v s).reg = s.reg := rfl
@[simp] theorem storeByte_grp (a : Nat) (v : Byte) (s : State) : (storeByte a v s).grp = s.grp := rfl
@[simp] theorem storeByte_grpfill (a : Nat) (v : Byte) (s : State) : (storeByte a v s).grpfill = s.grpfill := rfl
@[simp] theorem storeByte_ngrp (a : Nat) (v : Byte) (s : State) : (storeByte a v s).ngrp = s.ngrp := rfl
@[simp] theorem storeByte_cost (a : Nat) (v : Byte) (s : State) : (storeByte a v s).cost = s.cost := rfl
@[simp] theorem storeByte_bits (a : Nat) (v : Byte) (s : State) : (storeByte a v s).bits = s.bits := rfl
@[simp] theorem storeByte_p (a : Nat) (v : Byte) (s : State) : (storeByte a v s).p = s.p := rfl
@[simp] theorem storeByte_nbits (a : Nat) (v : Byte) (s : State) : (storeByte a v s).nbits = s.nbits := rfl
@[simp] theorem storeByte_nout (a : Nat) (v : Byte) (s : State) : (storeByte a v s).nout = s.nout := rfl
@[simp] theorem storeByte_msg (a : Nat) (v : Byte) (s : State) : (storeByte a v s).msg = s.msg.store a v := rfl
@[simp] theorem storeByte_lfsr (a : Nat) (v : Byte) (s : State) : (storeByte a v s).lfsr = s.lfsr := rfl
@[simp] theorem storeByte_crc (a : Nat) (v : Byte) (s : State) : (storeByte a v s).crc = s.crc := rfl
@[simp] theorem storeByte_rxcrc (a : Nat) (v : Byte) (s : State) : (storeByte a v s).rxcrc = s.rxcrc := rfl
@[simp] theorem storeByte_freq (a : Nat) (v : Byte) (s : State) : (storeByte a v s).freq = s.freq := rfl
@[simp] theorem storeByte_forwardInvalid (a : Nat) (v : Byte) (s : State) : (storeByte a v s).forwardInvalid = s.forwardInvalid := rfl
@[simp] theorem storeByte_enc (a : Nat) (v : Byte) (s : State) : (storeByte a v s).enc = s.enc := rfl
@[simp] theorem storeByte_cntAttempt (a : Nat) (v : Byte) (s : State) : (storeByte a v s).cntAttempt = s.cntAttempt := rfl
@[simp] theorem storeByte_cntPass (a : Nat) (v : Byte) (s : State) : (storeByte a v s).cntPass = s.cntPass := rfl
@[simp] theorem storeByte_cntAbandon (a : Nat) (v : Byte) (s : State) : (storeByte a v s).cntAbandon = s.cntAbandon := rfl
@[simp] theorem storeByte_ts (a : Nat) (v : Byte) (s : State) : (storeByte a v s).ts = s.ts := rfl
@[simp] theorem storeByte_inputs (a : Nat) (v : Byte) (s : State) : (storeByte a v s).inputs = s.inputs := rfl
@[simp] theorem storeByte_out (a : Nat) (v : Byte) (s : State) : (storeByte a v s).out = s.out := rfl

@[simp] theorem resetDecodeState_sync (s : State) : (resetDecodeState s).sync = false := rfl
@[simp] theorem resetDecodeState_reg (s : State) : (resetDecodeState s).reg = 0 := rfl
@[simp] theorem resetDecodeState_grp (s : State) : (resetDecodeState s).grp = 0 := rfl
@[simp] theorem resetDecodeState_grpfill (s : State) : (resetDecodeState s).grpfill = 0 := rfl
@[simp] theorem resetDecodeState_ngrp (s : State) : (resetDecodeState s).ngrp = 0 := rfl
@[simp] theorem resetDecodeState_cost (s : State) : (resetDecodeState s).cost = resetCost := rfl
@[simp] theorem resetDecodeState_bits (s : State) : (resetDecodeState s).bits = resetBits := rfl
@[simp] theorem resetDecodeState_p (s : State) : (resetDecodeState s).p = 0 := rfl
@[simp] theorem resetDecodeState_nbits (s : State) : (resetDecodeState s).nbits = 0 := rfl
@[simp] theorem resetDecodeState_nout (s : State) : (resetDecodeState s).nout = 0 := rfl
@[simp] theorem resetDecodeState_msg (s : State) : (resetDecodeState s).msg = [] := rfl
@[simp] theorem resetDecodeState_lfsr (s : State) : (resetDecodeState s).lfsr = lfsrInit := rfl
@[simp] theorem resetDecodeState_crc (s : State) : (resetDecodeState s).crc = crcInit := rfl
@[simp] theorem resetDecodeState_rxcrc (s : State) : (resetDecodeState s).rxcrc = 0 := rfl
@[simp] theorem resetDecodeState_freq (s : State) : (resetDecodeState s).freq = s.freq := rfl
@[simp] theorem resetDecodeState_forwardInvalid (s : State) : (resetDecodeState s).forwardInvalid = s.forwardInvalid := rfl
@[simp] theorem resetDecodeState_enc (s : State) : (resetDecodeState s).enc = s.enc := rfl
@[simp] theorem resetDecodeState_cntAttempt (s : State) : (resetDecodeState s).cntAttempt = s.cntAttempt := rfl
@[simp] theorem resetDecodeState_cntPass (s : State) : (resetDecodeState s).cntPass = s.cntPass := rfl
@[simp] theorem resetDecodeState_cntAbandon (s : State) : (resetDecodeState s).cntAbandon = s.cntAbandon := rfl
@[simp] theorem resetDecodeState_ts (s : State) : (resetDecodeState s).ts = s.ts := rfl
@[simp] theorem resetDecodeState_inputs (s : State) : (resetDecodeState s).inputs = s.inputs := rfl
@[simp] theorem resetDecodeState_out (s : State) : (resetDecodeState s).out = s.out := rfl

@[simp] theorem countAbandon_sync (s : State) : (countAbandon s).sync = s.sync := rfl
@[simp] theorem countAbandon_reg (s : State) : (countAbandon s).reg = s.reg := rfl
@[simp] theorem countAbandon_grp (s : State) : (countAbandon s).grp = s.grp := rfl
@[simp] theorem countAbandon_grpfill (s : State) : (countAbandon s).grpfill = s.grpfill := rfl
@[simp] theorem countAbandon_ngrp (s : State) : (countAbandon s).ngrp = s.ngrp := rfl
@[simp] theorem countAbandon_cost (s : State) : (countAbandon s).cost = s.cost := rfl
@[simp] theorem countAbandon_bits (s : State) : (countAbandon s).bits = s.bits := rfl
@[simp] theorem countAbandon_p (s : State) : (countAbandon s).p = s.p := rfl
@[simp] theorem countAbandon_nbits (s : State) : (countAbandon s).nbits = s.nbits := rfl
@[simp] theorem countAbandon_nout (s : State) : (countAbandon s).nout = s.nout := rfl
@[simp] theorem countAbandon_msg (s : State) : (countAbandon s).msg = s.msg := rfl
@[simp] theorem countAbandon_lfsr (s : State) : (countAbandon s).lfsr = s.lfsr := rfl
@[simp] theorem countAbandon_crc (s : State) : (countAbandon s).crc = s.crc := rfl
@[simp] theorem countAbandon_rxcrc (s : State) : (countAbandon s).rxcrc = s.rxcrc := rfl
@[simp] theorem countAbandon_freq (s : State) : (countAbandon s).freq = s.freq := rfl
@[simp] theorem countAbandon_forwardInvalid (s : State) : (countAbandon s).forwardInvalid = s.forwardInvalid := rfl
@[simp] theorem countAbandon_enc (s : State) : (countAbandon s).enc = s.enc := rfl
@[simp] theorem countAbandon_cntAttempt (s : State) : (countAbandon s).cntAttempt = s.cntAttempt := rfl
@[simp] theorem countAbandon_cntPass (s : State) : (countAbandon s).cntPass = s.cntPass := rfl
@[simp] theorem countAbandon_cntAbandon (s : State) : (countAbandon s).cntAbandon = if s.sync then s.cntAbandon + 1 else s.cntAbandon := rfl
@[simp] theorem countAbandon_ts (s : State) : (countAbandon s).ts = s.ts := rfl
@[simp] theorem countAbandon_inputs (s : State) : (countAbandon s).inputs = s.inputs := rfl
@[simp] theorem countAbandon_out (s : State) : (countAbandon s).out = s.out := rfl

@[simp] theorem countMessage_sync (v : Bool) (s : State) : (countMessage v s).sync = s.sync := rfl
@[simp] theorem countMessage_reg (v : Bool) (s : State) : (countMessage v s).reg = s.reg := rfl
@[simp] theorem countMessage_grp (v : Bool) (s : State) : (countMessage v s).grp = s.grp := rfl
@[simp] theorem countMessage_grpfill (v : Bool) (s : State) : (countMessage v s).grpfill = s.grpfill := rfl
@[simp] theorem countMessage_ngrp (v : Bool) (s : State) : (countMessage v s).ngrp = s.ngrp := rfl
@[simp] theorem countMessage_cost (v : Bool) (s : State) : (countMessage v s).cost = s.cost := rfl
@[simp] theorem countMessage_bits (v : Bool) (s : State) : (countMessage v s).bits = s.bits := rfl
@[simp] theorem countMessage_p (v : Bool) (s : State) : (countMessage v s).p = s.p := rfl
@[simp] theorem countMessage_nbits (v : Bool) (s : State) : (countMessage v s).nbits = s.nbits := rfl
@[simp] theorem countMessage_nout (v : Bool) (s : State) : (countMessage v s).nout = s.nout := rfl
@[simp] theorem countMessage_msg (v : Bool) (s : State) : (countMessage v s).msg = s.msg := rfl
@[simp] theorem countMessage_lfsr (v : Bool) (s : State) : (countMessage v s).lfsr = s.lfsr := rfl
@[simp] theorem countMessage_crc (v : Bool) (s : State) : (countMessage v s).crc = s.crc := rfl
@[simp] theorem countMessage_rxcrc (v : Bool) (s : State) : (countMessage v s).rxcrc = s.rxcrc := rfl
@[simp] theorem countMessage_freq (v : Bool) (s : State) : (countMessage v s).freq = s.freq := rfl
@[simp] theorem countMessage_forwardInvalid (v : Bool) (s : State) : (countMessage v s).forwardInvalid = s.forwardInvalid := rfl
@[simp] theorem countMessage_enc (v : Bool) (s : State) : (countMessage v s).enc = s.enc := rfl
@[simp] theorem countMessage_cntAttempt (v : Bool) (s : State) : (countMessage v s).cntAttempt = s.cntAttempt + 1 := rfl
@[simp] theorem countMessage_cntPass (v : Bool) (s : State) : (countMessage v s).cntPass = if v then s.cntPass + 1 else s.cntPass := rfl
@[simp] theorem countMessage_cntAbandon (v : Bool) (s : State) : (countMessage v s).cntAbandon = s.cntAbandon := rfl
@[simp] theorem countMessage_ts (v : Bool) (s : State) : (countMessage v s).ts = s.ts := rfl
@[simp] theorem countMessage_inputs (v : Bool) (s : State) : (countMessage v s).inputs = s.inputs := rfl
@[simp] theorem countMessage_out (v : Bool) (s : State) : (countMessage v s).out = s.out := rfl

@[simp] theorem takeInput_sync (e : InputEvent) (rest : List InputEvent) (s : State) : (takeInput e rest s).sync = s.sync := rfl
@[simp] theorem takeInput_reg (e : InputEvent) (rest : List InputEvent) (s : State) : (takeInput e rest s).reg = s.reg := rfl
@[simp] theorem takeInput_grp (e : InputEvent) (rest : List InputEvent) (s : State) : (takeInput e rest s).grp = s.grp := rfl
@[simp] theorem takeInput_grpfill (e : InputEvent) (rest : List InputEvent) (s : State) : (takeInput e rest s).grpfill = s.grpfill := rfl
@[simp] theorem takeInput_ngrp (e : InputEvent) (rest : List InputEvent) (s : State) : (takeInput e rest s).ngrp = s.ngrp := rfl
@[simp] theorem takeInput_cost (e : InputEvent) (rest : List InputEvent) (s : State) : (takeInput e rest s).cost = s.cost := rfl
@[simp] theorem takeInput_bits (e : InputEvent) (rest : List InputEvent) (s : State) : (takeInput e rest s).bits = s.bits := rfl
@[simp] theorem takeInput_p (e : InputEvent) (rest : List InputEvent) (s : State) : (takeInput e rest s).p = s.p := rfl
@[simp] theorem takeInput_nbits (e : InputEvent) (rest : List InputEvent) (s : State) : (takeInput e rest s).nbits = s.nbits := rfl
@[simp] theorem takeInput_nout (e : InputEvent) (rest : List InputEvent) (s : State) : (takeInput e rest s).nout = s.nout := rfl
@[simp] theorem takeInput_msg (e : InputEvent) (rest : List InputEvent) (s : State) : (takeInput e rest s).msg = s.msg := rfl
@[simp] theorem takeInput_lfsr (e : InputEvent) (rest : List InputEvent) (s : State) : (takeInput e rest s).lfsr = s.lfsr := rfl
@[simp] theorem takeInput_crc (e : InputEvent) (rest : List InputEvent) (s : State) : (takeInput e rest s).crc = s.crc := rfl
@[simp] theorem takeInput_rxcrc (e : InputEvent) (rest : List InputEvent) (s : State) : (takeInput e rest s).rxcrc = s.rxcrc := rfl
@[simp] theorem takeInput_freq (e : InputEvent) (rest : List InputEvent) (s : State) : (takeInput e rest s).freq = s.freq := rfl
@[simp] theorem takeInput_forwardInvalid (e : InputEvent) (rest : List InputEvent) (s : State) : (takeInput e rest s).forwardInvalid = s.forwardInvalid := rfl
@[simp] theorem takeInput_enc (e : InputEvent) (rest : List InputEvent) (s : State) : (takeInput e rest s).enc = s.enc := rfl
@[simp] theorem takeInput_cntAttempt (e : InputEvent) (rest : List InputEvent) (s : State) : (takeInput e rest s).cntAttempt = s.cntAttempt := rfl
@[simp] theorem takeInput_cntPass (e : InputEvent) (rest : List InputEvent) (s : State) : (takeInput e rest s).cntPass = s.cntPass := rfl
@[simp] theorem takeInput_cntAbandon (e : InputEvent) (rest : List InputEvent) (s : State) : (takeInput e rest s).cntAbandon = s.cntAbandon := rfl
@[simp] theorem takeInput_ts (e : InputEvent) (rest : List InputEvent) (s : State) : (takeInput e rest s).ts = if eventValid e.word then e.ts else s.ts := rfl
@[simp] theorem takeInput_inputs (e : InputEvent) (rest : List InputEvent) (s : State) : (takeInput e rest s).inputs = rest := rfl
@[simp] theorem takeInput_out (e : InputEvent) (rest : List InputEvent) (s : State) : (takeInput e rest s).out = s.out := rfl

@[simp] theorem syncShift_sync (b : Bit) (s : State) : (syncShift b s).sync = s.sync := rfl
@[simp] theorem syncShift_reg (b : Bit) (s : State) : (syncShift b s).reg = (s.reg <<< 1) ||| b.setWidth 16 := rfl
@[simp] theorem syncShift_grp (b : Bit) (s : State) : (syncShift b s).grp = s.grp := rfl
@[simp] theorem syncShift_grpfill (b : Bit) (s : State) : (syncShift b s).grpfill = s.grpfill := rfl
@[simp] theorem syncShift_ngrp (b : Bit) (s : State) : (syncShift b s).ngrp = s.ngrp := rfl
@[simp] theorem syncShift_cost (b : Bit) (s : State) : (syncShift b s).cost = s.cost := rfl
@[simp] theorem syncShift_bits (b : Bit) (s : State) : (syncShift b s).bits = s.bits := rfl
@[simp] theorem syncShift_p (b : Bit) (s : State) : (syncShift b s).p = s.p := rfl
@[simp] theorem syncShift_nbits (b : Bit) (s : State) : (syncShift b s).nbits = s.nbits := rfl
@[simp] theorem syncShift_nout (b : Bit) (s : State) : (syncShift b s).nout = s.nout := rfl
@[simp] theorem syncShift_msg (b : Bit) (s : State) : (syncShift b s).msg = s.msg := rfl
@[simp] theorem syncShift_lfsr (b : Bit) (s : State) : (syncShift b s).lfsr = s.lfsr := rfl
@[simp] theorem syncShift_crc (b : Bit) (s : State) : (syncShift b s).crc = s.crc := rfl
@[simp] theorem syncShift_rxcrc (b : Bit) (s : State) : (syncShift b s).rxcrc = s.rxcrc := rfl
@[simp] theorem syncShift_freq (b : Bit) (s : State) : (syncShift b s).freq = s.freq := rfl
@[simp] theorem syncShift_forwardInvalid (b : Bit) (s : State) : (syncShift b s).forwardInvalid = s.forwardInvalid := rfl
@[simp] theorem syncShift_enc (b : Bit) (s : State) : (syncShift b s).enc = s.enc := rfl
@[simp] theorem syncShift_cntAttempt (b : Bit) (s : State) : (syncShift b s).cntAttempt = s.cntAttempt := rfl
@[simp] theorem syncShift_cntPass (b : Bit) (s : State) : (syncShift b s).cntPass = s.cntPass := rfl
@[simp] theorem syncShift_cntAbandon (b : Bit) (s : State) : (syncShift b s).cntAbandon = s.cntAbandon := rfl
@[simp] theorem syncShift_ts (b : Bit) (s : State) : (syncShift b s).ts = s.ts := rfl
@[simp] theorem syncShift_inputs (b : Bit) (s : State) : (syncShift b s).inputs = s.inputs := rfl
@[simp] theorem syncShift_out (b : Bit) (s : State) : (syncShift b s).out = s.out := rfl

@[simp] theorem syncMatch_sync (s : State) : (syncMatch s).sync = if syncMatches s then true else s.sync := rfl
@[simp] theorem syncMatch_reg (s : State) : (syncMatch s).reg = s.reg := rfl
@[simp] theorem syncMatch_grp (s : State) : (syncMatch s).grp = s.grp := rfl
@[simp] theorem syncMatch_grpfill (s : State) : (syncMatch s).grpfill = s.grpfill := rfl
@[simp] theorem syncMatch_ngrp (s : State) : (syncMatch s).ngrp = s.ngrp := rfl
@[simp] theorem syncMatch_cost (s : State) : (syncMatch s).cost = s.cost := rfl
@[simp] theorem syncMatch_bits (s : State) : (syncMatch s).bits = s.bits := rfl
@[simp] theorem syncMatch_p (s : State) : (syncMatch s).p = s.p := rfl
@[simp] theorem syncMatch_nbits (s : State) : (syncMatch s).nbits = s.nbits := rfl
@[simp] theorem syncMatch_nout (s : State) : (syncMatch s).nout = s.nout := rfl
@[simp] theorem syncMatch_msg (s : State) : (syncMatch s).msg = s.msg := rfl
@[simp] theorem syncMatch_lfsr (s : State) : (syncMatch s).lfsr = s.lfsr := rfl
@[simp] theorem syncMatch_crc (s : State) : (syncMatch s).crc = s.crc := rfl
@[simp] theorem syncMatch_rxcrc (s : State) : (syncMatch s).rxcrc = s.rxcrc := rfl
@[simp] theorem syncMatch_freq (s : State) : (syncMatch s).freq = s.freq := rfl
@[simp] theorem syncMatch_forwardInvalid (s : State) : (syncMatch s).forwardInvalid = s.forwardInvalid := rfl
@[simp] theorem syncMatch_enc (s : State) : (syncMatch s).enc = s.enc := rfl
@[simp] theorem syncMatch_cntAttempt (s : State) : (syncMatch s).cntAttempt = s.cntAttempt := rfl
@[simp] theorem syncMatch_cntPass (s : State) : (syncMatch s).cntPass = s.cntPass := rfl
@[simp] theorem syncMatch_cntAbandon (s : State) : (syncMatch s).cntAbandon = s.cntAbandon := rfl
@[simp] theorem syncMatch_ts (s : State) : (syncMatch s).ts = s.ts := rfl
@[simp] theorem syncMatch_inputs (s : State) : (syncMatch s).inputs = s.inputs := rfl
@[simp] theorem syncMatch_out (s : State) : (syncMatch s).out = s.out := rfl

@[simp] theorem shiftGroup_sync (b : Bit) (s : State) : (shiftGroup b s).sync = s.sync := rfl
@[simp] theorem shiftGroup_reg (b : Bit) (s : State) : (shiftGroup b s).reg = s.reg := rfl
@[simp] theorem shiftGroup_grp (b : Bit) (s : State) : (shiftGroup b s).grp = (s.grp <<< 1) ||| b.setWidth 32 := rfl
@[simp] theorem shiftGroup_grpfill (b : Bit) (s : State) : (shiftGroup b s).grpfill = s.grpfill + 1 := rfl
@[simp] theorem shiftGroup_ngrp (b : Bit) (s : State) : (shiftGroup b s).ngrp = s.ngrp := rfl
@[simp] theorem shiftGroup_cost (b : Bit) (s : State) : (shiftGroup b s).cost = s.cost := rfl
@[simp] theorem shiftGroup_bits (b : Bit) (s : State) : (shiftGroup b s).bits = s.bits := rfl
@[simp] theorem shiftGroup_p (b : Bit) (s : State) : (shiftGroup b s).p = s.p := rfl
@[simp] theorem shiftGroup_nbits (b : Bit) (s : State) : (shiftGroup b s).nbits = s.nbits := rfl
@[simp] theorem shiftGroup_nout (b : Bit) (s : State) : (shiftGroup b s).nout = s.nout := rfl
@[simp] theorem shiftGroup_msg (b : Bit) (s : State) : (shiftGroup b s).msg = s.msg := rfl
@[simp] theorem shiftGroup_lfsr (b : Bit) (s : State) : (shiftGroup b s).lfsr = s.lfsr := rfl
@[simp] theorem shiftGroup_crc (b : Bit) (s : State) : (shiftGroup b s).crc = s.crc := rfl
@[simp] theorem shiftGroup_rxcrc (b : Bit) (s : State) : (shiftGroup b s).rxcrc = s.rxcrc := rfl
@[simp] theorem shiftGroup_freq (b : Bit) (s : State) : (shiftGroup b s).freq = s.freq := rfl
@[simp] theorem shiftGroup_forwardInvalid (b : Bit) (s : State) : (shiftGroup b s).forwardInvalid = s.forwardInvalid := rfl
@[simp] theorem shiftGroup_enc (b : Bit) (s : State) : (shiftGroup b s).enc = s.enc := rfl
@[simp] theorem shiftGroup_cntAttempt (b : Bit) (s : State) : (shiftGroup b s).cntAttempt = s.cntAttempt := rfl
@[simp] theorem shiftGroup_cntPass (b : Bit) (s : State) : (shiftGroup b s).cntPass = s.cntPass := rfl
@[simp] theorem shiftGroup_cntAbandon (b : Bit) (s : State) : (shiftGroup b s).cntAbandon = s.cntAbandon := rfl
@[simp] theorem shiftGroup_ts (b : Bit) (s : State) : (shiftGroup b s).ts = s.ts := rfl
@[simp] theorem shiftGroup_inputs (b : Bit) (s : State) : (shiftGroup b s).inputs = s.inputs := rfl
@[simp] theorem shiftGroup_out (b : Bit) (s : State) : (shiftGroup b s).out = s.out := rfl

@[simp] theorem closeGroup_sync (s : State) : (closeGroup s).sync = s.sync := rfl
@[simp] theorem closeGroup_reg (s : State) : (closeGroup s).reg = s.reg := rfl
@[simp] theorem closeGroup_grp (s : State) : (closeGroup s).grp = 0 := rfl
@[simp] theorem closeGroup_grpfill (s : State) : (closeGroup s).grpfill = 0 := rfl
@[simp] theorem closeGroup_ngrp (s : State) : (closeGroup s).ngrp = s.ngrp + 1 := rfl
@[simp] theorem closeGroup_cost (s : State) : (closeGroup s).cost = s.cost := rfl
@[simp] theorem closeGroup_bits (s : State) : (closeGroup s).bits = s.bits := rfl
@[simp] theorem closeGroup_p (s : State) : (closeGroup s).p = s.p := rfl
@[simp] theorem closeGroup_nbits (s : State) : (closeGroup s).nbits = s.nbits := rfl
@[simp] theorem closeGroup_nout (s : State) : (closeGroup s).nout = s.nout := rfl
@[simp] theorem closeGroup_msg (s : State) : (closeGroup s).msg = s.msg := rfl
@[simp] theorem closeGroup_lfsr (s : State) : (closeGroup s).lfsr = s.lfsr := rfl
@[simp] theorem closeGroup_crc (s : State) : (closeGroup s).crc = s.crc := rfl
@[simp] theorem closeGroup_rxcrc (s : State) : (closeGroup s).rxcrc = s.rxcrc := rfl
@[simp] theorem closeGroup_freq (s : State) : (closeGroup s).freq = s.freq := rfl
@[simp] theorem closeGroup_forwardInvalid (s : State) : (closeGroup s).forwardInvalid = s.forwardInvalid := rfl
@[simp] theorem closeGroup_enc (s : State) : (closeGroup s).enc = s.enc := rfl
@[simp] theorem closeGroup_cntAttempt (s : State) : (closeGroup s).cntAttempt = s.cntAttempt := rfl
@[simp] theorem closeGroup_cntPass (s : State) : (closeGroup s).cntPass = s.cntPass := rfl
@[simp] theorem closeGroup_cntAbandon (s : State) : (closeGroup s).cntAbandon = s.cntAbandon := rfl
@[simp] theorem closeGroup_ts (s : State) : (closeGroup s).ts = s.ts := rfl
@[simp] theorem closeGroup_inputs (s : State) : (closeGroup s).inputs = s.inputs := rfl
@[simp] theorem closeGroup_out (s : State) : (closeGroup s).out = s.out := rfl

@[simp] theorem vitACS_sync (r : Symbol) (s : State) : (vitACS r s).sync = s.sync := rfl
@[simp] theorem vitACS_reg (r : Symbol) (s : State) : (vitACS r s).reg = s.reg := rfl
@[simp] theorem vitACS_grp (r : Symbol) (s : State) : (vitACS r s).grp = s.grp := rfl
@[simp] theorem vitACS_grpfill (r : Symbol) (s : State) : (vitACS r s).grpfill = s.grpfill := rfl
@[simp] theorem vitACS_ngrp (r : Symbol) (s : State) : (vitACS r s).ngrp = s.ngrp := rfl
@[simp] theorem vitACS_cost (r : Symbol) (s : State) : (vitACS r s).cost = s.cost.set (1 - s.p) (PerState.ofFn (acsMetric s.enc (curCost s) r)) := rfl
@[simp] theorem vitACS_bits (r : Symbol) (s : State) : (vitACS r s).bits = s.bits.set (1 - s.p) (PerState.ofFn (acsHistory s.enc (curCost s) (curBits s) r)) := rfl
@[simp] theorem vitACS_p (r : Symbol) (s : State) : (vitACS r s).p = s.p := rfl
@[simp] theorem vitACS_nbits (r : Symbol) (s : State) : (vitACS r s).nbits = s.nbits := rfl
@[simp] theorem vitACS_nout (r : Symbol) (s : State) : (vitACS r s).nout = s.nout := rfl
@[simp] theorem vitACS_msg (r : Symbol) (s : State) : (vitACS r s).msg = s.msg := rfl
@[simp] theorem vitACS_lfsr (r : Symbol) (s : State) : (vitACS r s).lfsr = s.lfsr := rfl
@[simp] theorem vitACS_crc (r : Symbol) (s : State) : (vitACS r s).crc = s.crc := rfl
@[simp] theorem vitACS_rxcrc (r : Symbol) (s : State) : (vitACS r s).rxcrc = s.rxcrc := rfl
@[simp] theorem vitACS_freq (r : Symbol) (s : State) : (vitACS r s).freq = s.freq := rfl
@[simp] theorem vitACS_forwardInvalid (r : Symbol) (s : State) : (vitACS r s).forwardInvalid = s.forwardInvalid := rfl
@[simp] theorem vitACS_enc (r : Symbol) (s : State) : (vitACS r s).enc = s.enc := rfl
@[simp] theorem vitACS_cntAttempt (r : Symbol) (s : State) : (vitACS r s).cntAttempt = s.cntAttempt := rfl
@[simp] theorem vitACS_cntPass (r : Symbol) (s : State) : (vitACS r s).cntPass = s.cntPass := rfl
@[simp] theorem vitACS_cntAbandon (r : Symbol) (s : State) : (vitACS r s).cntAbandon = s.cntAbandon := rfl
@[simp] theorem vitACS_ts (r : Symbol) (s : State) : (vitACS r s).ts = s.ts := rfl
@[simp] theorem vitACS_inputs (r : Symbol) (s : State) : (vitACS r s).inputs = s.inputs := rfl
@[simp] theorem vitACS_out (r : Symbol) (s : State) : (vitACS r s).out = s.out := rfl

@[simp] theorem vitAdvance_sync (s : State) : (vitAdvance s).sync = s.sync := rfl
@[simp] theorem vitAdvance_reg (s : State) : (vitAdvance s).reg = s.reg := rfl
@[simp] theorem vitAdvance_grp (s : State) : (vitAdvance s).grp = s.grp := rfl
@[simp] theorem vitAdvance_grpfill (s : State) : (vitAdvance s).grpfill = s.grpfill := rfl
@[simp] theorem vitAdvance_ngrp (s : State) : (vitAdvance s).ngrp = s.ngrp := rfl
@[simp] theorem vitAdvance_cost (s : State) : (vitAdvance s).cost = s.cost := rfl
@[simp] theorem vitAdvance_bits (s : State) : (vitAdvance s).bits = s.bits := rfl
@[simp] theorem vitAdvance_p (s : State) : (vitAdvance s).p = 1 - s.p := rfl
@[simp] theorem vitAdvance_nbits (s : State) : (vitAdvance s).nbits = s.nbits + 1 := rfl
@[simp] theorem vitAdvance_nout (s : State) : (vitAdvance s).nout = s.nout := rfl
@[simp] theorem vitAdvance_msg (s : State) : (vitAdvance s).msg = s.msg := rfl
@[simp] theorem vitAdvance_lfsr (s : State) : (vitAdvance s).lfsr = s.lfsr := rfl
@[simp] theorem vitAdvance_crc (s : State) : (vitAdvance s).crc = s.crc := rfl
@[simp] theorem vitAdvance_rxcrc (s : State) : (vitAdvance s).rxcrc = s.rxcrc := rfl
@[simp] theorem vitAdvance_freq (s : State) : (vitAdvance s).freq = s.freq := rfl
@[simp] theorem vitAdvance_forwardInvalid (s : State) : (vitAdvance s).forwardInvalid = s.forwardInvalid := rfl
@[simp] theorem vitAdvance_enc (s : State) : (vitAdvance s).enc = s.enc := rfl
@[simp] theorem vitAdvance_cntAttempt (s : State) : (vitAdvance s).cntAttempt = s.cntAttempt := rfl
@[simp] theorem vitAdvance_cntPass (s : State) : (vitAdvance s).cntPass = s.cntPass := rfl
@[simp] theorem vitAdvance_cntAbandon (s : State) : (vitAdvance s).cntAbandon = s.cntAbandon := rfl
@[simp] theorem vitAdvance_ts (s : State) : (vitAdvance s).ts = s.ts := rfl
@[simp] theorem vitAdvance_inputs (s : State) : (vitAdvance s).inputs = s.inputs := rfl
@[simp] theorem vitAdvance_out (s : State) : (vitAdvance s).out = s.out := rfl

@[simp] theorem countByte_sync (s : State) : (countByte s).sync = s.sync := rfl
@[simp] theorem countByte_reg (s : State) : (countByte s).reg = s.reg := rfl
@[simp] theorem countByte_grp (s : State) : (countByte s).grp = s.grp := rfl
@[simp] theorem countByte_grpfill (s : State) : (countByte s).grpfill = s.grpfill := rfl
@[simp] theorem countByte_ngrp (s : State) : (countByte s).ngrp = s.ngrp := rfl
@[simp] theorem countByte_cost (s : State) : (countByte s).cost = s.cost := rfl
@[simp] theorem countByte_bits (s : State) : (countByte s).bits = s.bits := rfl
@[simp] theorem countByte_p (s : State) : (countByte s).p = s.p := rfl
@[simp] theorem countByte_nbits (s : State) : (countByte s).nbits = s.nbits := rfl
@[simp] theorem countByte_nout (s : State) : (countByte s).nout = s.nout + 1 := rfl
@[simp] theorem countByte_msg (s : State) : (countByte s).msg = s.msg := rfl
@[simp] theorem countByte_lfsr (s : State) : (countByte s).lfsr = s.lfsr := rfl
@[simp] theorem countByte_crc (s : State) : (countByte s).crc = s.crc := rfl
@[simp] theorem countByte_rxcrc (s : State) : (countByte s).rxcrc = s.rxcrc := rfl
@[simp] theorem countByte_freq (s : State) : (countByte s).freq = s.freq := rfl
@[simp] theorem countByte_forwardInvalid (s : State) : (countByte s).forwardInvalid = s.forwardInvalid := rfl
@[simp] theorem countByte_enc (s : State) : (countByte s).enc = s.enc := rfl
@[simp] theorem countByte_cntAttempt (s : State) : (countByte s).cntAttempt = s.cntAttempt := rfl
@[simp] theorem countByte_cntPass (s : State) : (countByte s).cntPass = s.cntPass := rfl
@[simp] theorem countByte_cntAbandon (s : State) : (countByte s).cntAbandon = s.cntAbandon := rfl
@[simp] theorem countByte_ts (s : State) : (countByte s).ts = s.ts := rfl
@[simp] theorem countByte_inputs (s : State) : (countByte s).inputs = s.inputs := rfl
@[simp] theorem countByte_out (s : State) : (countByte s).out = s.out := rfl

@[simp] theorem descrByte_sync (i : Nat) (s : State) : (descrByte s i).sync = s.sync := rfl
@[simp] theorem descrByte_reg (i : Nat) (s : State) : (descrByte s i).reg = s.reg := rfl
@[simp] theorem descrByte_grp (i : Nat) (s : State) : (descrByte s i).grp = s.grp := rfl
@[simp] theorem descrByte_grpfill (i : Nat) (s : State) : (descrByte s i).grpfill = s.grpfill := rfl
@[simp] theorem descrByte_ngrp (i : Nat) (s : State) : (descrByte s i).ngrp = s.ngrp := rfl
@[simp] theorem descrByte_cost (i : Nat) (s : State) : (descrByte s i).cost = s.cost := rfl
@[simp] theorem descrByte_bits (i : Nat) (s : State) : (descrByte s i).bits = s.bits := rfl
@[simp] theorem descrByte_p (i : Nat) (s : State) : (descrByte s i).p = s.p := rfl
@[simp] theorem descrByte_nbits (i : Nat) (s : State) : (descrByte s i).nbits = s.nbits := rfl
@[simp] theorem descrByte_nout (i : Nat) (s : State) : (descrByte s i).nout = s.nout := rfl
@[simp] theorem descrByte_msg (i : Nat) (s : State) : (descrByte s i).msg = s.msg.store i (s.msg.byteAt i ^^^ whitenByte s.lfsr) := rfl
@[simp] theorem descrByte_lfsr (i : Nat) (s : State) : (descrByte s i).lfsr = lfsrSteps 8 s.lfsr := rfl
@[simp] theorem descrByte_crc (i : Nat) (s : State) : (descrByte s i).crc = s.crc := rfl
@[simp] theorem descrByte_rxcrc (i : Nat) (s : State) : (descrByte s i).rxcrc = s.rxcrc := rfl
@[simp] theorem descrByte_freq (i : Nat) (s : State) : (descrByte s i).freq = s.freq := rfl
@[simp] theorem descrByte_forwardInvalid (i : Nat) (s : State) : (descrByte s i).forwardInvalid = s.forwardInvalid := rfl
@[simp] theorem descrByte_enc (i : Nat) (s : State) : (descrByte s i).enc = s.enc := rfl
@[simp] theorem descrByte_cntAttempt (i : Nat) (s : State) : (descrByte s i).cntAttempt = s.cntAttempt := rfl
@[simp] theorem descrByte_cntPass (i : Nat) (s : State) : (descrByte s i).cntPass = s.cntPass := rfl
@[simp] theorem descrByte_cntAbandon (i : Nat) (s : State) : (descrByte s i).cntAbandon = s.cntAbandon := rfl
@[simp] theorem descrByte_ts (i : Nat) (s : State) : (descrByte s i).ts = s.ts := rfl
@[simp] theorem descrByte_inputs (i : Nat) (s : State) : (descrByte s i).inputs = s.inputs := rfl
@[simp] theorem descrByte_out (i : Nat) (s : State) : (descrByte s i).out = s.out := rfl

@[simp] theorem crcMsg_sync (s : State) : (crcMsg s).sync = s.sync := rfl
@[simp] theorem crcMsg_reg (s : State) : (crcMsg s).reg = s.reg := rfl
@[simp] theorem crcMsg_grp (s : State) : (crcMsg s).grp = s.grp := rfl
@[simp] theorem crcMsg_grpfill (s : State) : (crcMsg s).grpfill = s.grpfill := rfl
@[simp] theorem crcMsg_ngrp (s : State) : (crcMsg s).ngrp = s.ngrp := rfl
@[simp] theorem crcMsg_cost (s : State) : (crcMsg s).cost = s.cost := rfl
@[simp] theorem crcMsg_bits (s : State) : (crcMsg s).bits = s.bits := rfl
@[simp] theorem crcMsg_p (s : State) : (crcMsg s).p = s.p := rfl
@[simp] theorem crcMsg_nbits (s : State) : (crcMsg s).nbits = s.nbits := rfl
@[simp] theorem crcMsg_nout (s : State) : (crcMsg s).nout = s.nout := rfl
@[simp] theorem crcMsg_msg (s : State) : (crcMsg s).msg = s.msg := rfl
@[simp] theorem crcMsg_lfsr (s : State) : (crcMsg s).lfsr = s.lfsr := rfl
@[simp] theorem crcMsg_crc (s : State) : (crcMsg s).crc = crcBytes s.crc (s.msg.bytesFrom 0 crcCover) := rfl
@[simp] theorem crcMsg_rxcrc (s : State) : (crcMsg s).rxcrc = s.rxcrc := rfl
@[simp] theorem crcMsg_freq (s : State) : (crcMsg s).freq = s.freq := rfl
@[simp] theorem crcMsg_forwardInvalid (s : State) : (crcMsg s).forwardInvalid = s.forwardInvalid := rfl
@[simp] theorem crcMsg_enc (s : State) : (crcMsg s).enc = s.enc := rfl
@[simp] theorem crcMsg_cntAttempt (s : State) : (crcMsg s).cntAttempt = s.cntAttempt := rfl
@[simp] theorem crcMsg_cntPass (s : State) : (crcMsg s).cntPass = s.cntPass := rfl
@[simp] theorem crcMsg_cntAbandon (s : State) : (crcMsg s).cntAbandon = s.cntAbandon := rfl
@[simp] theorem crcMsg_ts (s : State) : (crcMsg s).ts = s.ts := rfl
@[simp] theorem crcMsg_inputs (s : State) : (crcMsg s).inputs = s.inputs := rfl
@[simp] theorem crcMsg_out (s : State) : (crcMsg s).out = s.out := rfl

@[simp] theorem crcRx_sync (s : State) : (crcRx s).sync = s.sync := rfl
@[simp] theorem crcRx_reg (s : State) : (crcRx s).reg = s.reg := rfl
@[simp] theorem crcRx_grp (s : State) : (crcRx s).grp = s.grp := rfl
@[simp] theorem crcRx_grpfill (s : State) : (crcRx s).grpfill = s.grpfill := rfl
@[simp] theorem crcRx_ngrp (s : State) : (crcRx s).ngrp = s.ngrp := rfl
@[simp] theorem crcRx_cost (s : State) : (crcRx s).cost = s.cost := rfl
@[simp] theorem crcRx_bits (s : State) : (crcRx s).bits = s.bits := rfl
@[simp] theorem crcRx_p (s : State) : (crcRx s).p = s.p := rfl
@[simp] theorem crcRx_nbits (s : State) : (crcRx s).nbits = s.nbits := rfl
@[simp] theorem crcRx_nout (s : State) : (crcRx s).nout = s.nout := rfl
@[simp] theorem crcRx_msg (s : State) : (crcRx s).msg = s.msg := rfl
@[simp] theorem crcRx_lfsr (s : State) : (crcRx s).lfsr = s.lfsr := rfl
@[simp] theorem crcRx_crc (s : State) : (crcRx s).crc = s.crc := rfl
@[simp] theorem crcRx_rxcrc (s : State) : (crcRx s).rxcrc = crcRxOf s.msg := rfl
@[simp] theorem crcRx_freq (s : State) : (crcRx s).freq = s.freq := rfl
@[simp] theorem crcRx_forwardInvalid (s : State) : (crcRx s).forwardInvalid = s.forwardInvalid := rfl
@[simp] theorem crcRx_enc (s : State) : (crcRx s).enc = s.enc := rfl
@[simp] theorem crcRx_cntAttempt (s : State) : (crcRx s).cntAttempt = s.cntAttempt := rfl
@[simp] theorem crcRx_cntPass (s : State) : (crcRx s).cntPass = s.cntPass := rfl
@[simp] theorem crcRx_cntAbandon (s : State) : (crcRx s).cntAbandon = s.cntAbandon := rfl
@[simp] theorem crcRx_ts (s : State) : (crcRx s).ts = s.ts := rfl
@[simp] theorem crcRx_inputs (s : State) : (crcRx s).inputs = s.inputs := rfl
@[simp] theorem crcRx_out (s : State) : (crcRx s).out = s.out := rfl

end Sys2Proof.Machine
end

