-- ==== Sys2Proof/Laws/Ops.lean ====
section
/-! SUPPORT. What each shared operation can do, said once: the sequencing of outcomes, the register file, the checked
write, emission and flush of the Viterbi decoder, and the dispatcher. -/

namespace Sys2Proof.Machine

/-! ### Sequencing -/

@[simp] theorem andThen_next (s : State) (f : State → Run) : andThen (.next s) f = f s := rfl

@[simp] theorem andThen_fault (e : Fault) (f : State → Run) : andThen (.fault e) f = .fault e := rfl

@[simp] theorem andThen_refused (e : Refusal) (f : State → Run) : andThen (.refused e) f = .refused e := rfl

/-- A sequence answers a next state just when both parts do. -/
theorem andThen_eq_next {r : Run} {f : State → Run} {t : State} :
    andThen r f = .next t ↔ ∃ s, r = .next s ∧ f s = .next t := by
  cases r <;> simp [andThen]

theorem andThen_assoc (r : Run) (f g : State → Run) :
    andThen (andThen r f) g = andThen r fun s => andThen (f s) g := by
  cases r <;> rfl

/-! ### The register file -/

/-- The value of a state in a bank built from a function. -/
@[simp] theorem PerState.get_ofFn {α : Type} (f : TrellisState → α) (q : TrellisState) : (PerState.ofFn f).get q = f q := by
  have : ∀ q : BitVec 3, q = 0 ∨ q = 1 ∨ q = 2 ∨ q = 3 ∨ q = 4 ∨ q = 5 ∨ q = 6 ∨ q = 7 := by decide
  rcases this q with h | h | h | h | h | h | h | h <;> subst h <;> rfl

@[simp] theorem PerState.get_all {α : Type} (x : α) (q : TrellisState) : (PerState.all x).get q = x := by
  have : ∀ q : BitVec 3, q = 0 ∨ q = 1 ∨ q = 2 ∨ q = 3 ∨ q = 4 ∨ q = 5 ∨ q = 6 ∨ q = 7 := by decide
  rcases this q with h | h | h | h | h | h | h | h <;> subst h <;> rfl

/-- A buffer reads as what was put there. -/
@[simp] theorem Double.get_set_same {α : Type} (d : Double α) (p : BitVec 1) (x : α) : (d.set p x).get p = x := by
  simp only [Double.get, Double.set]; split <;> rfl

/-- Writing one buffer leaves the other. -/
@[simp] theorem Double.get_set_other {α : Type} (d : Double α) (p : BitVec 1) (x : α) : (d.set (1 - p) x).get p = d.get p := by
  have : ∀ p : BitVec 1, p = 0 ∨ p = 1 := by decide
  rcases this p with h | h <;> subst h <;> rfl

/-- The index toggles: twice is nothing (10_state.md R41). -/
@[simp] theorem toggle_toggle (p : BitVec 1) : 1 - (1 - p) = p := by
  revert p; decide

/-! ### The checked write -/

/-- A checked write lands just when its address exists. -/
theorem memWrite_eq_next {a : Nat} {v : Byte} {s t : State} :
    memWrite a v s = .next t ↔ a < msgBytes ∧ t = storeByte a v s := by
  simp only [memWrite]; split <;> simp_all [eq_comm]

/-- Appending a byte writes `msg[nout]` and counts it, and needs `nout` inside the buffer. -/
theorem appendByte_eq_next {v : Byte} {s t : State} :
    appendByte v s = .next t ↔ s.nout.toNat < msgBytes ∧ t = countByte (storeByte s.nout.toNat v s) := by
  simp only [appendByte, andThen_eq_next, memWrite_eq_next]
  constructor
  · rintro ⟨u, ⟨h, rfl⟩, h'⟩; exact ⟨h, (Host.Outcome.next.inj h').symm⟩
  · rintro ⟨h, rfl⟩; exact ⟨_, ⟨h, rfl⟩, rfl⟩

/-! ### Emission, flush, trellis steps -/

/-- VIT.EMIT does nothing, or appends the emitted byte. -/
theorem vitEmit_eq_next {s t : State} :
    vitEmit s = .next t ↔
      (emitDue s = false ∧ t = s) ∨
      (emitDue s = true ∧ s.nout.toNat < msgBytes ∧ t = countByte (storeByte s.nout.toNat (emittedByte s) s)) := by
  simp only [vitEmit]
  cases h : emitDue s
  · simp [eq_comm]
  · simp [appendByte_eq_next]

/-- A state that differs from `s` in the message buffer and the byte count only, its buffer canonical if that of `s` is. -/
structure AppendsOnly (s t : State) : Prop where
  /-- Nothing else differs. -/
  rest : t = { s with msg := t.msg, nout := t.nout }
  /-- The canonical form is kept. -/
  wf : s.msg.wf = true → t.msg.wf = true

theorem AppendsOnly.refl (s : State) : AppendsOnly s s := ⟨rfl, id⟩

theorem AppendsOnly.trans {s t u : State} (h : AppendsOnly s t) (h' : AppendsOnly t u) : AppendsOnly s u :=
  ⟨by rw [h'.rest, h.rest], fun w => h'.wf (h.wf w)⟩

theorem AppendsOnly.append {s : State} (v : Byte) (h : s.nout.toNat < msgBytes) :
    AppendsOnly s (countByte (storeByte s.nout.toNat v s)) :=
  ⟨rfl, fun w => Memory.store_wf w h v⟩

/-- The flush loop always answers a next state, and only appends. -/
theorem vitFlushLoop_next (h : History) : ∀ (fuel rem : Nat) (s : State),
    ∃ t, vitFlushLoop h fuel rem s = .next t ∧ AppendsOnly s t
  | 0, _, s => ⟨s, rfl, .refl s⟩
  | fuel + 1, rem, s => by
    simp only [vitFlushLoop]
    split
    · next hn =>
      have ha := (appendByte_eq_next (v := flushByte h rem)).mpr ⟨hn, rfl⟩
      obtain ⟨t, ht, hk⟩ := vitFlushLoop_next h fuel (rem - 8) (countByte (storeByte s.nout.toNat (flushByte h rem) s))
      exact ⟨t, by rw [ha, andThen_next, ht], (AppendsOnly.append _ hn).trans hk⟩
    · exact ⟨s, rfl, .refl s⟩

/-- VIT.FLUSH always answers a next state, only appends, and away from the final point does nothing. -/
theorem vitFlush_next (s : State) :
    ∃ t, vitFlush s = .next t ∧ AppendsOnly s t ∧ (atFinalPoint s = false → t = s) := by
  simp only [vitFlush]
  cases hp : atFinalPoint s
  · exact ⟨s, rfl, .refl s, fun _ => rfl⟩
  · obtain ⟨t, ht, hk⟩ := vitFlushLoop_next ((curBits s).get 0) msgBytes (s.nbits.toNat - 8 * s.nout.toNat) s
    exact ⟨t, by simpa using ht, hk, by simp⟩

/-- VIT.EMIT only appends. -/
theorem vitEmit_appends {s t : State} (h : vitEmit s = .next t) : AppendsOnly s t := by
  rcases vitEmit_eq_next.mp h with ⟨_, rfl⟩ | ⟨_, hn, rfl⟩
  · exact .refl _
  · exact .append _ hn

/-- A trellis step writes the register file, advances, and appends; nothing else. -/
theorem vitStep_next {r : Symbol} {s t : State} (h : vitStep r s = .next t) :
    AppendsOnly (vitAdvance (vitACS r s)) t := by
  obtain ⟨u, hu, hf⟩ := andThen_eq_next.mp h
  obtain ⟨t', ht', hk, _⟩ := vitFlush_next u
  rw [ht'] at hf
  cases hf
  exact (vitEmit_appends hu).trans hk

/-- A state that differs from `s` only in what trellis steps write. -/
structure TrellisOnly (s t : State) : Prop where
  /-- Nothing else differs. -/
  rest : t = { s with cost := t.cost, bits := t.bits, p := t.p, nbits := t.nbits, msg := t.msg, nout := t.nout }
  /-- The canonical form is kept. -/
  wf : s.msg.wf = true → t.msg.wf = true

theorem TrellisOnly.refl (s : State) : TrellisOnly s s := ⟨rfl, id⟩

theorem TrellisOnly.trans {s t u : State} (h : TrellisOnly s t) (h' : TrellisOnly t u) : TrellisOnly s u :=
  ⟨by rw [h'.rest, h.rest], fun w => h'.wf (h.wf w)⟩

/-- A trellis step changes only what trellis steps write, toggles the buffer index and counts itself. -/
theorem vitStep_trellis {r : Symbol} {s t : State} (h : vitStep r s = .next t) :
    TrellisOnly s t ∧ t.p = 1 - s.p ∧ t.nbits = s.nbits + 1 := by
  have ⟨hr, hw⟩ := vitStep_next h
  refine ⟨⟨by rw [hr]; rfl, fun w => hw w⟩, ?_, ?_⟩ <;> rw [hr] <;> rfl

/-- Trellis steps change only what trellis steps write. -/
theorem vitSteps_trellis : ∀ {rs : List Symbol} {s t : State}, vitSteps rs s = .next t → TrellisOnly s t
  | [], s, t, h => by cases h; exact .refl s
  | r :: rest, s, t, h => by
    obtain ⟨u, hu, hr⟩ := andThen_eq_next.mp h
    exact (vitStep_trellis hu).1.trans (vitSteps_trellis hr)

/-! ### The dispatcher, and completion -/

/-- Whatever the code, the dispatcher emits a record with that code, and nothing else. -/
theorem dispatchCode_next (t : TypeCode) (s : State) :
    ∃ k c, dispatchCode t s = .next (emit (.record (recordOf k c s)) s) := by
  unfold dispatchCode
  split <;> exact ⟨_, _, rfl⟩

/-- DISPATCH emits a record, and nothing else. -/
theorem dispatch_next (s : State) : ∃ k c, dispatch s = .next (emit (.record (recordOf k c s)) s) :=
  dispatchCode_next _ s

/-- The report of a message: a record when the CRC passes or the policy forwards it, else a CRC failure. -/
theorem reportMessage_next (s : State) :
    ∃ o, reportMessage s = .next (emit o s) ∧
      ((crcValid s = true ∨ s.forwardInvalid = true) ∧ (∃ k c, o = .record (recordOf k c s)) ∨
       (crcValid s = false ∧ s.forwardInvalid = false) ∧ o = .crcFail s.crc s.rxcrc) := by
  simp only [reportMessage]
  cases hv : crcValid s <;> cases hf : s.forwardInvalid
  · exact ⟨_, rfl, .inr ⟨⟨rfl, rfl⟩, rfl⟩⟩
  all_goals
    obtain ⟨k, c, h⟩ := dispatch_next s
    exact ⟨_, by simpa using h, .inl ⟨by simp, k, c, rfl⟩⟩

/-- Descrambling changes the message buffer and the whitening register, and keeps the canonical form. -/
theorem descrMsg_frame (s : State) :
    descrMsg s = { s with msg := (descrMsg s).msg, lfsr := (descrMsg s).lfsr } ∧
      (s.msg.wf = true → (descrMsg s).msg.wf = true) := by
  have fold : ∀ (is : List Nat), (∀ i ∈ is, i < msgBytes) → ∀ s : State,
      is.foldl descrByte s = { s with msg := (is.foldl descrByte s).msg, lfsr := (is.foldl descrByte s).lfsr } ∧
        (s.msg.wf = true → (is.foldl descrByte s).msg.wf = true) := by
    intro is
    induction is with
    | nil => exact fun _ s => ⟨rfl, id⟩
    | cons i rest ih =>
      intro hb s
      have ⟨h1, h2⟩ := ih (fun j hj => hb j (List.mem_cons_of_mem i hj)) (descrByte s i)
      rw [List.foldl_cons]
      generalize rest.foldl descrByte (descrByte s i) = x at h1 h2 ⊢
      exact ⟨h1, fun w => h2 (Memory.store_wf w (hb i (List.mem_cons_self ..)) _)⟩
  exact fold (List.range msgBytes) (fun i hi => List.mem_range.mp hi) s

/-- The check of a message changes the buffer, the whitening register and the two CRC registers. -/
theorem checkMessage_frame (s : State) :
    checkMessage s = { s with msg := (checkMessage s).msg, lfsr := (checkMessage s).lfsr,
                              crc := (checkMessage s).crc, rxcrc := (checkMessage s).rxcrc } := by
  have h := (descrMsg_frame s).1
  simp only [checkMessage, crcRx, crcMsg]
  rw [h]

/-- A completed message leaves the reset decode state, its counters, and its report: never `NONE`. -/
theorem completeMessage_next (s : State) :
    ∃ o, o ≠ .none ∧ completeMessage s = .next
      (resetDecodeState (emit o (countMessage (crcValid (checkMessage s)) s))) := by
  obtain ⟨o, ho, hc⟩ := reportMessage_next (countMessage (crcValid (checkMessage s)) (checkMessage s))
  refine ⟨o, ?_, ?_⟩
  · rcases hc with ⟨_, k, c, rfl⟩ | ⟨_, rfl⟩ <;> simp
  · simp only [completeMessage, ho, andThen_next]
    have h := checkMessage_frame s
    generalize crcValid (checkMessage s) = v
    generalize checkMessage s = x at h ⊢
    rw [h]
    rfl

/-! ### The four events -/

/-- Feeding a bit: a shift and a match while hunting, the group buffer while locked. -/
theorem doFeed_cases {b : Bit} {s t : State} (h : doFeed b s = .next t) :
    (s.sync = false ∧ t = syncMatch (syncShift b s)) ∨
    (s.sync = true ∧ groupFull (shiftGroup b s) = false ∧ t = shiftGroup b s) ∨
    (s.sync = true ∧ groupFull (shiftGroup b s) = true ∧ ∃ u,
      vitSteps (symbolsOf (deinterleave (shiftGroup b s).grp)) (shiftGroup b s) = .next u ∧
      ((messageComplete (closeGroup u) = false ∧ t = closeGroup u) ∨
       (messageComplete (closeGroup u) = true ∧ completeMessage (closeGroup u) = .next t))) := by
  cases hs : s.sync
  · simp only [doFeed, hs, Bool.false_eq_true, if_false] at h
    cases h
    exact .inl ⟨rfl, rfl⟩
  · simp only [doFeed, hs, if_true, groupAccum] at h
    cases hf : groupFull (shiftGroup b s)
    · simp only [hf, Bool.false_eq_true, if_false] at h
      cases h
      exact .inr (.inl ⟨rfl, rfl, rfl⟩)
    · simp only [hf, if_true, groupProcess] at h
      obtain ⟨u, hu, hg⟩ := andThen_eq_next.mp h
      refine .inr (.inr ⟨rfl, rfl, u, hu, ?_⟩)
      cases hm : messageComplete (closeGroup u)
      · simp only [hm, Bool.false_eq_true, if_false] at hg
        cases hg
        exact .inl ⟨rfl, rfl⟩
      · simp only [hm, if_true] at hg
        exact .inr ⟨rfl, hg⟩

/-- The resynchronize signal leaves the reset decode state and counts an abandoned message. -/
theorem doResync_eq (s : State) : doResync s = resetDecodeState (countAbandon s) := rfl

/-- After the resynchronize signal the decoder hunts with a cleared shift register. -/
@[simp] theorem doResync_sync (s : State) : (doResync s).sync = false := rfl

@[simp] theorem doResync_reg (s : State) : (doResync s).reg = 0 := rfl

end Sys2Proof.Machine
end

