-- ==== Sys2Proof/Laws/Batch.lean ====
section
/-! SUPPORT. What one event of a sequence does, and how a sequence begins (30_encoding.md R87, 46_channel_decoder.md
R171, R182). -/

namespace Sys2Proof.Machine

@[simp] theorem reported_none : reported .none = [] := rfl
@[simp] theorem reported_record (r : Record) : reported (.record r) = [.record r] := rfl
@[simp] theorem reported_crcFail (x y : BitVec 16) : reported (.crcFail x y) = [.crcFail x y] := rfl

/-- An event reports itself just when it is not `NONE`. -/
theorem mem_reported {o o' : OutEvent} : o' ∈ reported o ↔ o' = o ∧ o ≠ .none := by
  cases o <;> simp

/-- Giving an event to the block runs the instruction it decodes to; the host's deliveries stand. -/
theorem processEvent_eq (e : InputEvent) (s : State) :
    processEvent e s =
      exec (decode (.event e.word)) { s with ts := if eventValid e.word then e.ts else s.ts } := rfl

@[simp] theorem runEvents_nil (s : State) : runEvents [] s = ([], .next s) := rfl

/-- A sequence that begins with an event that has a next state. -/
theorem runEvents_cons {e : InputEvent} {s t : State} (h : processEvent e s = .next t) (rest : List InputEvent) :
    runEvents (e :: rest) s = (reported t.out ++ (runEvents rest t).1, (runEvents rest t).2) := by
  simp only [runEvents, h]

/-- A sequence with a next state: its first event has one, and so has the rest. -/
theorem runEvents_cons_next {e : InputEvent} {rest : List InputEvent} {s u : State} {os : List OutEvent}
    (h : runEvents (e :: rest) s = (os, .next u)) :
    ∃ t os', processEvent e s = .next t ∧ runEvents rest t = (os', .next u) ∧ os = reported t.out ++ os' := by
  cases hp : processEvent e s with
  | next t =>
    rw [runEvents_cons hp, Prod.mk.injEq] at h
    exact ⟨t, _, rfl, Prod.ext rfl h.2, h.1.symm⟩
  | fault x => simp [runEvents, hp] at h
  | refused x => simp [runEvents, hp] at h

@[simp] theorem runBatch_nil (s : State) : runBatch [] s = ([], .next s) := rfl

theorem runBatch_cons (x : BatchItem) (items : List BatchItem) (s : State) :
    runBatch (x :: items) s = runEvents (itemEvent x :: items.map itemEvent) s := rfl

end Sys2Proof.Machine
end

