-- ==== Sys2Proof/Laws/PerInstr.lean ====
section
/-! SUPPORT. Statements for all instructions, one lemma per constructor of `Instr`. -/

namespace Sys2Proof.Laws

/-- A well-formed instruction's encoding has the format and the fixed bits of its row of the opcode table. -/
def RowFits.Statement (i : Instr) : Prop := i.wellFormed = true → i.row.fits (encode i) = true

theorem RowFits.idle (b : Bit) : RowFits.Statement (.idle b) := by
  revert b; unfold RowFits.Statement; decide

theorem RowFits.feed (b : Bit) : RowFits.Statement (.feed b) := by
  revert b; unfold RowFits.Statement; decide

theorem RowFits.resync (b : Bit) : RowFits.Statement (.resync b) := by
  revert b; unfold RowFits.Statement; decide

theorem RowFits.resyncFeed (b : Bit) : RowFits.Statement (.resyncFeed b) := by
  revert b; unfold RowFits.Statement; decide

theorem RowFits.type01Sensor : RowFits.Statement .type01Sensor := fun _ => rfl

theorem RowFits.type02Sensor : RowFits.Statement .type02Sensor := fun _ => rfl

theorem RowFits.type03Sensor : RowFits.Statement .type03Sensor := fun _ => rfl

theorem RowFits.type04Configuration : RowFits.Statement .type04Configuration := fun _ => rfl

theorem RowFits.type05Location : RowFits.Statement .type05Location := fun _ => rfl

theorem RowFits.type06Satellite : RowFits.Statement .type06Satellite := fun _ => rfl

theorem RowFits.type07Companion : RowFits.Statement .type07Companion := fun _ => rfl

theorem RowFits.type08MegaSensor : RowFits.Statement .type08MegaSensor := fun _ => rfl

theorem RowFits.type12MegaSensor : RowFits.Statement .type12MegaSensor := fun _ => rfl

theorem RowFits.type09MegaData : RowFits.Statement .type09MegaData := fun _ => rfl

theorem RowFits.type15MegaData : RowFits.Statement .type15MegaData := fun _ => rfl

theorem RowFits.type0AMetrumSensor : RowFits.Statement .type0AMetrumSensor := fun _ => rfl

theorem RowFits.type0BMetrumData : RowFits.Statement .type0BMetrumData := fun _ => rfl

theorem RowFits.type10Mini : RowFits.Statement .type10Mini := fun _ => rfl

theorem RowFits.type11Mini : RowFits.Statement .type11Mini := fun _ => rfl

theorem RowFits.type13MegaNorm : RowFits.Statement .type13MegaNorm := fun _ => rfl

theorem RowFits.type14MegaNorm : RowFits.Statement .type14MegaNorm := fun _ => rfl

theorem RowFits.typeOtherBase (t : TypeCode) : RowFits.Statement (.typeOtherBase t) := by
  intro _; simp [Row.fits, Instr.row, encode]

end Sys2Proof.Laws
end

