-- ==== Sys2Proof/Laws/Viterbi.lean ====
section
/-! SUPPORT. The emission schedule of the Viterbi decoder (42_viterbi.md R130): how many bytes stand in the buffer after
`n` trellis steps, and that every step of a message keeps to it, stores only the bytes it counts, and never faults. -/

namespace Sys2Proof.Machine

/-- The bytes appended after `n` trellis steps of a message (42_viterbi.md R130). -/
def bytesAfterSteps (n : Nat) : Nat := if n < 32 then 0 else if n < 288 then (n - 24) / 8 else 36

/-- The two ways to count the bytes agree at the end of a group. -/
theorem bytesAfterSteps_group {g : Nat} (h : g ≤ 17) : bytesAfterSteps (16 * g) = bytesAfterGroups g := by
  simp only [bytesAfterSteps, bytesAfterGroups]; split_ifs <;> omega

/-- A state whose byte count keeps to the schedule, part way through a message. -/
structure OnSchedule (s : State) : Prop where
  count : s.nout.toNat = bytesAfterSteps s.nbits.toNat
  steps : s.nbits.toNat ≤ 288
  wf : s.msg.wf = true

/-- `t` has appended bytes to `s`: the bytes below the old count, and those from the new one on, are as they were. -/
structure Appended (s t : State) : Prop where
  le : s.nout.toNat ≤ t.nout.toNat
  below : ∀ a, a < s.nout.toNat → t.msg.byteAt a = s.msg.byteAt a
  above : ∀ a, t.nout.toNat ≤ a → t.msg.byteAt a = s.msg.byteAt a

theorem Appended.refl (s : State) : Appended s s := ⟨le_rfl, fun _ _ => rfl, fun _ _ => rfl⟩

theorem Appended.trans {s t u : State} (h : Appended s t) (h' : Appended t u) : Appended s u :=
  ⟨h.le.trans h'.le, fun a ha => (h'.below a (by have := h.le; omega)).trans (h.below a ha),
   fun a ha => (h'.above a ha).trans (h.above a (by have := h'.le; omega))⟩

/-- Counting a byte below 63 adds one. -/
theorem nout_succ {s : State} (h : s.nout.toNat < msgBytes) (v : Byte) :
    (countByte (storeByte s.nout.toNat v s)).nout.toNat = s.nout.toNat + 1 := by
  simp only [countByte_nout, storeByte_nout, msgBytes] at h ⊢
  bv_omega

/-- Appending one byte in a canonical buffer. -/
theorem appended_byte {s : State} (h : s.nout.toNat < msgBytes) (hw : s.msg.wf = true) (v : Byte) :
    Appended s (countByte (storeByte s.nout.toNat v s)) := by
  have hn := nout_succ h v
  refine ⟨by omega, fun a ha => ?_, fun a ha => ?_⟩ <;>
    simp only [countByte_msg, storeByte_msg, Memory.byteAt_store hw] <;> rw [if_neg (by omega)]

/-- The flush loop appends up to the end of the buffer. -/
theorem vitFlushLoop_spec (h : History) : ∀ (fuel rem : Nat) (s : State), s.msg.wf = true →
    s.nout.toNat ≤ msgBytes → msgBytes ≤ s.nout.toNat + fuel →
    ∃ t, vitFlushLoop h fuel rem s = .next t ∧ AppendsOnly s t ∧ Appended s t ∧ t.nout.toNat = msgBytes
  | 0, _, s, _, hle, hf => ⟨s, rfl, .refl s, .refl s, by omega⟩
  | fuel + 1, rem, s, hw, hle, hf => by
    simp only [vitFlushLoop]
    split
    · next hn =>
      have hs := nout_succ hn (flushByte h rem)
      have hw' := Memory.store_wf hw hn (flushByte h rem)
      obtain ⟨t, ht, hk, ha, hc⟩ := vitFlushLoop_spec h fuel (rem - 8)
        (countByte (storeByte s.nout.toNat (flushByte h rem) s)) hw' (by omega) (by omega)
      refine ⟨t, ?_, (AppendsOnly.append _ hn).trans hk, (appended_byte hn hw _).trans ha, hc⟩
      rw [appendByte_eq_next.mpr ⟨hn, rfl⟩, andThen_next, ht]
    · exact ⟨s, rfl, .refl s, .refl s, by omega⟩

/-- What one trellis step of a message does to the counts and the buffer. -/
theorem vitStep_onSchedule {r : Symbol} {s : State} (h : OnSchedule s) (hlt : s.nbits.toNat < 288) :
    ∃ t, vitStep r s = .next t ∧ OnSchedule t ∧ Appended s t ∧ t.nbits.toNat = s.nbits.toNat + 1 := by
  obtain ⟨hc, -, hw⟩ := h
  have hb : (s.nbits + 1).toNat = s.nbits.toNat + 1 := by bv_omega
  have hemit : ∃ u, vitEmit (vitAdvance (vitACS r s)) = .next u ∧ Appended s u ∧ u.msg.wf = true ∧
      u.nbits = s.nbits + 1 ∧ u.nout.toNat = min 33 (bytesAfterSteps (s.nbits.toNat + 1)) := by
    cases he : emitDue (vitAdvance (vitACS r s))
    · refine ⟨_, vitEmit_eq_next.mpr (.inl ⟨he, rfl⟩), ⟨le_rfl, fun _ _ => rfl, fun _ _ => rfl⟩, hw, rfl, ?_⟩
      simp only [emitDue, vitAdvance_nbits, vitACS_nbits, vitAdvance_nout, vitACS_nout, hb, numVHist,
        decide_eq_false_iff_not] at he
      simp only [vitAdvance_nout, vitACS_nout]
      simp only [bytesAfterSteps] at hc ⊢
      split_ifs at hc ⊢ <;> omega
    · have hd := of_decide_eq_true he
      simp only [vitAdvance_nbits, vitACS_nbits, vitAdvance_nout, vitACS_nout, hb, numVHist] at hd
      have hn : (vitAdvance (vitACS r s)).nout.toNat < msgBytes := by
        simp only [vitAdvance_nout, vitACS_nout, msgBytes]; omega
      refine ⟨_, vitEmit_eq_next.mpr (.inr ⟨he, hn, rfl⟩), ⟨(appended_byte hn hw _).le,
        (appended_byte hn hw _).below, (appended_byte hn hw _).above⟩, Memory.store_wf hw hn _, rfl, ?_⟩
      rw [nout_succ hn]
      simp only [vitAdvance_nout, vitACS_nout]
      simp only [bytesAfterSteps] at hc ⊢
      split_ifs at hc ⊢ <;> omega
  obtain ⟨u, hu, ha, huw, hub, hun⟩ := hemit
  have hubn : u.nbits.toNat = s.nbits.toNat + 1 := by rw [hub, hb]
  cases hp : atFinalPoint u
  · refine ⟨u, ?_, ⟨?_, by omega, huw⟩, ha, hubn⟩
    · rw [vitStep, hu, andThen_next, vitFlush, hp]; rfl
    · have : s.nbits.toNat + 1 ≠ 288 := fun e => of_decide_eq_false hp (BitVec.eq_of_toNat_eq (by rw [hubn, e]; rfl))
      rw [hun, hubn]
      simp only [bytesAfterSteps]
      split_ifs <;> omega
  · have he : s.nbits.toNat + 1 = 288 := by rw [← hubn, of_decide_eq_true hp]; rfl
    rw [he] at hun
    have hun' : u.nout.toNat = 33 := by rw [hun]; rfl
    obtain ⟨t, ht, hk, hka, hkn⟩ := vitFlushLoop_spec ((curBits u).get 0) msgBytes (u.nbits.toNat - 8 * u.nout.toNat) u huw
      (by simp only [msgBytes]; omega) (by simp only [msgBytes]; omega)
    have htb : t.nbits = u.nbits := by rw [hk.rest]
    refine ⟨t, ?_, ⟨?_, by rw [htb, hubn]; omega, hk.wf huw⟩, ha.trans hka, by rw [htb, hubn]⟩
    · rw [vitStep, hu, andThen_next, vitFlush, if_pos hp, ht]
    · rw [hkn, htb, hubn, he]; rfl

/-- The trellis steps of a message keep to the schedule. -/
theorem vitSteps_onSchedule : ∀ {rs : List Symbol} {s : State}, OnSchedule s → s.nbits.toNat + rs.length ≤ 288 →
    ∃ t, vitSteps rs s = .next t ∧ OnSchedule t ∧ Appended s t ∧ t.nbits.toNat = s.nbits.toNat + rs.length ∧
      t.p = s.p + BitVec.ofNat 1 rs.length
  | [], s, h, _ => ⟨s, rfl, h, .refl s, rfl, by simp⟩
  | r :: rest, s, h, hl => by
    simp only [List.length_cons] at hl ⊢
    obtain ⟨u, hu, hs, ha, hb⟩ := vitStep_onSchedule (r := r) h (by omega)
    obtain ⟨t, ht, hs', ha', hb', hp⟩ := vitSteps_onSchedule (rs := rest) hs (by omega)
    refine ⟨t, by rw [vitSteps, hu, andThen_next, ht], hs', ha.trans ha', by omega, ?_⟩
    rw [hp, (vitStep_trellis hu).2.1]
    have : ∀ p q : BitVec 1, 1 - p + q = p + (q + 1) := by decide
    rw [this, BitVec.ofNat_add]
    rfl

/-- A group has sixteen symbols. -/
@[simp] theorem symbolsOf_length (w : Group) : (symbolsOf w).length = 16 := by
  simp [symbolsOf, symsPerGroup]

/-- A settled state, its group buffer aside, is on schedule. -/
theorem State.Settled.onSchedule {s : State} (h : s.Settled) : OnSchedule s := by
  obtain ⟨-, -, ⟨-, hg, hb⟩, hn, -, -, -, hw, -⟩ := h
  refine ⟨?_, by omega, hw⟩
  rw [hn, hb, bytesAfterSteps_group hg]

end Sys2Proof.Machine
end

