-- ==== Sys2Proof/Tests/Slice0.lean ====
section
/-! SUPPORT. The model's own tests: ill-formed terms refused, words written out from the spec's encodings, the spec's
examples and vectors one operation at a time, and for every statement with hypotheses a state that meets them. -/

namespace Sys2Proof.Tests

open Sys2Proof.Machine

/-! ### Well-formedness -/

theorem test_listed_code_is_no_fallback : (Instr.typeOtherBase 0x15).wellFormed = false := by decide

theorem test_unlisted_code_is_fallback : (Instr.typeOtherBase 0x0C).wellFormed = true := by decide

theorem test_accessor_below_payload_illformed : (Accessor.unsigned8 4).wellFormed = false := by decide

theorem test_accessor_past_payload_illformed : (Accessor.signed32 29).wellFormed = false := by decide

theorem test_accessor_at_payload_end_wellformed : (Accessor.signed32 28).wellFormed = true := by decide

theorem test_string_past_payload_illformed : (Accessor.string 31 2).wellFormed = false := by decide

/-! ### Words written out from 30_encoding.md R84 (resync, valid, bit) and R93 -/

theorem test_decode_idle : decode (.event 0b001) = .idle 1 := by decide

theorem test_decode_feed : decode (.event 0b010) = .feed 0 := by decide

theorem test_decode_feed_one : decode (.event 0b011) = .feed 1 := by decide

theorem test_decode_resync : decode (.event 0b100) = .resync 0 := by decide

theorem test_decode_resyncFeed : decode (.event 0b111) = .resyncFeed 1 := by decide

theorem test_decode_type01 : decode (.typeCode 0b00000001) = .type01Sensor := by decide

theorem test_decode_type02 : decode (.typeCode 0b00000010) = .type02Sensor := by decide

theorem test_decode_type03 : decode (.typeCode 0b00000011) = .type03Sensor := by decide

theorem test_decode_type04 : decode (.typeCode 0b00000100) = .type04Configuration := by decide

theorem test_decode_type05 : decode (.typeCode 0b00000101) = .type05Location := by decide

theorem test_decode_type06 : decode (.typeCode 0b00000110) = .type06Satellite := by decide

theorem test_decode_type07 : decode (.typeCode 0b00000111) = .type07Companion := by decide

theorem test_decode_type08 : decode (.typeCode 0b00001000) = .type08MegaSensor := by decide

theorem test_decode_type12 : decode (.typeCode 0b00010010) = .type12MegaSensor := by decide

theorem test_decode_type09 : decode (.typeCode 0b00001001) = .type09MegaData := by decide

theorem test_decode_type15 : decode (.typeCode 0b00010101) = .type15MegaData := by decide

theorem test_decode_type0A : decode (.typeCode 0b00001010) = .type0AMetrumSensor := by decide

theorem test_decode_type0B : decode (.typeCode 0b00001011) = .type0BMetrumData := by decide

theorem test_decode_type10 : decode (.typeCode 0b00010000) = .type10Mini := by decide

theorem test_decode_type11 : decode (.typeCode 0b00010001) = .type11Mini := by decide

theorem test_decode_type13 : decode (.typeCode 0b00010011) = .type13MegaNorm := by decide

theorem test_decode_type14 : decode (.typeCode 0b00010100) = .type14MegaNorm := by decide

theorem test_decode_other : decode (.typeCode 0b00010110) = .typeOtherBase 0x16 := by decide

theorem test_event_byte_with_high_bits_refused : decodeBytes .evt [0x08] = .error .eventWordTooWide := by rfl

theorem test_no_byte_refused : decodeBytes .msg [] = .error .noByte := by rfl

theorem test_table_word_feed : decodeTableWord 8 3 = some (.feed 1) := by decide

theorem test_table_word_type : decodeTableWord 8 0x12 = some .type12MegaSensor := by decide

theorem test_table_word_long_type : decodeTableWord 16 0x0A = some .type0AMetrumSensor := by decide

/-! ### Helpers -/

/-- A locked decoder with the given group buffer contents. -/
def locked (grp : Group) (fill : BitVec 6) : State :=
  { State.powerOn 7 true with sync := true, reg := syncWord, grp := grp, grpfill := fill }

/-- The output event of an outcome. -/
def outOf : Run → Option OutEvent
  | .next t => some t.out
  | _ => none

/-- Whether an outcome is a next state with a property. -/
def nextHas (r : Run) (f : State → Bool) : Bool :=
  match r with
  | .next t => f t
  | _ => false

/-- A decoder one bit before the end of a clean message of the given type. -/
def nearlyDone (t : TypeCode) : State := almostComplete (whiten (withCrc (bodyWithType t))) (State.powerOn 7 true)

/-! ### BitSync (40_bitsync.md R102, R103, R106) -/

theorem test_sync_completes : nextHas (exec (.feed 1) { State.reset with reg := 0x69C8 })
    (fun t => t.sync && t.reg == 0xD391 && t.grpfill == 0) = true := by decide

theorem test_near_miss : nextHas (exec (.feed 0) { State.reset with reg := 0x69C8 })
    (fun t => !t.sync && t.reg == 0xD390) = true := by decide

theorem test_resync_clears_while_hunting : nextHas (exec (.resync 0) { State.reset with reg := 0x69C8 })
    (fun t => t.reg == 0 && t.cntAbandon == 0) = true := by decide

theorem test_resync_counts_while_locked : nextHas (exec (.resync 1) (locked 0x000313A1 20))
    (fun t => !t.sync && t.grp == 0 && t.cntAbandon == 1) = true := by decide

theorem test_resyncFeed_keeps_the_bit : nextHas (exec (.resyncFeed 1) (locked 5 3))
    (fun t => !t.sync && t.reg == 1 && t.cntAbandon == 1 && t.out == .none) = true := by decide

theorem test_idle_returns_none : outOf (exec (.idle 1) { State.reset with out := .crcFail 1 2 }) = some .none := by decide

/-! ### Deinterleaver (95_test_vectors.md section 4) -/

theorem test_deint_general : deinterleave 0x01234567 = 0xDD508850 := by decide

theorem test_deint_first_symbol : deinterleave 0x00000001 = 0x40000000 := by decide

/-! ### Viterbi decoder (95_test_vectors.md section 5) -/

/-- V-VIT-1 at step 4: state 4 is reached from its second predecessor. -/
theorem test_vit_zero_path : nextHas (vitSteps [0, 0, 0, 0] State.reset) (fun t =>
    curCost t == ⟨0, 2, 3, 3, 4, 3, 4, 4⟩ && curBits t == ⟨0, 1, 2, 3, 0xC, 5, 6, 7⟩ && t.p == 0) = true := by decide

/-- V-VIT-2. -/
theorem test_vit_errors : nextHas (vitSteps [3, 1, 2, 0] State.reset) (fun t =>
    curCost t == ⟨3, 1, 2, 2, 2, 4, 4, 4⟩ && curBits t == ⟨8, 9, 0xA, 0xB, 0xC, 0xD, 6, 7⟩ && t.nbits == 4) = true := by
  decide

/-- Under a table that swaps 0 and 3, 1 and 2 throughout, the zero path's symbol is 3. -/
theorem test_code_table_is_configuration :
    let s := { State.reset with enc := tableOf [3, 0, 2, 1, 0, 3, 1, 2, 0, 3, 1, 2, 3, 0, 2, 1] }
    (curCost (vitAdvance (vitACS 3 s))).get 0 = 0 ∧ (curCost (vitAdvance (vitACS 3 s))).get 1 = 2 ∧
    (curCost (vitAdvance (vitACS 3 State.reset))).get 0 = 2 := by decide

/-- Entry 9 of the table, state 4 and bit 1, in the spec's order. -/
theorem test_code_table_order : expected (tableOf [0, 0, 0, 0, 0, 0, 0, 0, 0, 2]) 4 1 = 2 := by decide

/-- V-VIT-7: both sums saturate and the tie takes the first predecessor. -/
theorem test_vit_saturates : firstWins encTable ⟨254, 0, 0, 0, 255, 0, 0, 0⟩ 3 0 = true := by decide

/-- V-VIT-8. -/
theorem test_argmin_tie : argmin ⟨4, 4, 4, 3, 2, 2, 2, 3⟩ = 4 := by decide

/-! ### Descrambler and CRC (95_test_vectors.md section 6) -/

theorem test_lfsr_first_step : lfsrStep 0x1FF = 0x0FF := by decide

set_option maxRecDepth 4000 in
theorem test_lfsr_after_a_message : lfsrSteps 288 0x1FF = 0x092 := by decide +kernel

set_option maxRecDepth 4000 in
theorem test_whitening_sequence : whitening 36 lfsrInit = Claims.whiteningTable := by decide

theorem test_crc_check_value : crcBytes crcInit [0x31, 0x32, 0x33, 0x34, 0x35, 0x36, 0x37, 0x38, 0x39] = 0xAEE7 := by
  decide +kernel

theorem test_crc_one_bit : crcBit 0xFFFF false = 0x7FFB := by decide

/-! ### Memory reads -/

theorem test_mem_read_little_endian : le16 [(0, 0x34), (1, 0x12)] 0 = 0x1234 := by decide

theorem test_mem_string : memStr [(5, 0x4B), (6, 0x4C), (8, 0x4D)] 5 4 = .ok [0x4B, 0x4C] := by rfl

theorem test_mem_signed : Accessor.read [(5, 0xFE), (6, 0xFF)] (.signed16 5) = .ok (.int (-2)) := by rfl

/-! ### Completion: a record of each policy (95_test_vectors.md section 7) -/

set_option maxRecDepth 4000 in
/-- V-BLK-1's last bit: the all-zero stream decodes to the whitening bytes, CRC 23A8 against 3053. -/
theorem test_zero_stream_fails : outOf (exec (.feed 0)
    { almostComplete [] { State.reset with forwardInvalid := false } with cost := ⟨⟨0, 2, 3, 3, 4, 3, 4, 4⟩, PerState.all 0⟩ }) =
    some (.crcFail 0x23A8 0x3053) := by decide +kernel

set_option maxRecDepth 4000 in
/-- A clean message of type 0x05 gives a Location record, CRC passed. -/
theorem test_clean_location : nextHas (exec (.feed 0) (nearlyDone 0x05)) (fun t =>
    (match t.out with
      | .record r => r.valid && r.kind == .location && r.type == 0x05 && r.freq == 7
      | _ => false) && t.cntPass == 1 && !t.sync) = true := by decide +kernel

set_option maxRecDepth 4000 in
/-- The word of a type code, loaded, runs at the next step. -/
theorem test_loaded_type_runs : nextHas (step (State.reset.withFetchWord 8 0x15)) (fun t =>
    match t.out with
      | .record r => r.valid && r.kind == .megaData && r.type == 0x15
      | _ => false) = true := by decide +kernel

set_option maxRecDepth 4000 in
/-- A record completed by the first bit of a batch is reported, though the second bit's output is `NONE`. -/
theorem test_record_in_mid_batch :
    (runBatch [⟨false, 0, 5⟩, ⟨false, 1, 6⟩] (nearlyDone 0x05)).1.map (fun o =>
      match o with
      | .record r => r.type == 0x05 && r.ts == 5
      | _ => false) = [true] := by decide +kernel

/-- The word of an event, loaded, runs at the next step. -/
theorem test_loaded_event_runs : nextHas (step (State.reset.withFetchWord 8 3)) (fun t => t.reg == 1) = true := by decide

/-! ### Witnesses: for each statement with hypotheses, values that meet them -/

theorem witness_step_delivery : { State.reset with inputs := [⟨3, 9⟩] }.inputs = (⟨3, 9⟩ : InputEvent) :: [] ∧
    State.reset.inputs = [] := by decide

theorem witness_wellFormed : (Instr.typeOtherBase 0x0C).wellFormed = true ∧ (Instr.feed 1).wellFormed = true := by decide

theorem witness_rows : (Instr.feed 1).row.mask ≠ 0 ∧ (Instr.feed 1).row.fits (.event 3) = true ∧
    Instr.type14MegaNorm.row.mask ≠ 0 ∧ Instr.type14MegaNorm.row.fits (.typeCode 0x14) = true := by decide

theorem witness_hunting : State.reset.sync = false := by decide

theorem witness_group_not_full : (locked 3 30).sync = true ∧ (locked 3 30).grpfill ≠ 31 := by decide

theorem witness_group_end : (locked 3 31).Settled ∧ (locked 3 31).sync = true ∧ (locked 3 31).grpfill = 31 ∧
    (locked 3 31).ngrp.toNat < 17 := by decide

/-- The last group that does not complete the message, after 29 bytes. -/
theorem witness_group_end_late :
    let s := { locked 3 31 with ngrp := 16, nbits := 256, nout := 29, msg := [(0, 0xCB), (28, 0x29)] }
    s.Settled ∧ s.sync = true ∧ s.grpfill = 31 ∧ s.ngrp.toNat < 17 := by decide

theorem witness_last_bit : (nearlyDone 0x05).Settled ∧ (nearlyDone 0x05).sync = true ∧ (nearlyDone 0x05).grpfill = 31 ∧
    (nearlyDone 0x05).ngrp = 17 := by decide

theorem witness_second_resync : ∃ t, exec (.resync 0) (locked 3 5) = .next t := ⟨_, rfl⟩

/-- No match stands before the end of the sync word itself. -/
theorem witness_sync_word : State.reset.sync = false ∧ State.reset.reg = 0 ∧
    ∀ pre post : List Bit, syncBits = pre ++ syncBits ++ post → post = [] := by
  refine ⟨rfl, rfl, fun pre post h => ?_⟩
  have := congrArg List.length h
  simp only [List.length_append] at this
  exact List.eq_nil_of_length_eq_zero (by omega)

theorem witness_unlisted : (0x0C : TypeCode) ≤ 0x0C ∧ (0x0F : TypeCode) ≤ 0x0F ∧ (0x16 : TypeCode) ≤ 0xFF := by decide

theorem witness_emission_due :
    (32 : BitVec 9).toNat = 8 * (0 : BitVec 6).toNat + 32 ∧ (312 : BitVec 9).toNat = 8 * (35 : BitVec 6).toNat + 32 ∧
    (35 : BitVec 6).toNat < 36 ∧ (320 : BitVec 9).toNat = 8 * (36 : BitVec 6).toNat + 32 ∧ 36 ≤ (36 : BitVec 6).toNat ∧
    State.reset.nbits.toNat ≠ 8 * State.reset.nout.toNat + 32 := by decide

theorem witness_flush :
    let s := { locked 0 0 with nbits := 288, nout := 33, msg := [(0, 0xCB), (32, 0x1E)] }
    s.nbits = 288 ∧ s.nout = 33 ∧ s.msg.wf = true ∧ State.reset.nbits ≠ 288 := by decide

theorem witness_clean_step : Distinguishes State.reset.enc ∧ (curCost State.reset).get 0 = 0 ∧
    ∀ q : TrellisState, q ≠ 0 → (curCost State.reset).get q ≠ 0 := by decide

theorem witness_clean_symbols : Distinguishes State.reset.enc ∧ curCost State.reset = startMetrics := by decide

theorem witness_lfsr_index : 0 < 510 ∧ 510 < 511 ∧ 7 < 8 := by decide

theorem witness_descramble : (nearlyDone 1).lfsr = 0x1FF ∧ (nearlyDone 1).msg.wf = true := by decide

theorem witness_descramble_byte : (nearlyDone 1).msg.wf = true ∧ 0 < 36 ∧ 35 < 36 := by decide

theorem witness_memory_bounds : 34 + 2 ≤ 36 ∧ 36 < 35 + 2 ∧ 32 + 4 ≤ 36 ∧ 36 < 33 + 4 ∧ 35 + 1 ≤ 36 ∧ 36 < 36 + 1 := by decide

theorem witness_string_bounds : 5 + 8 ≤ 36 ∧ 36 + 0 ≤ 36 := by decide

theorem witness_accessor_bounds : 5 ≤ (Accessor.signed32 28).addr ∧ (Accessor.signed32 28).addr + (Accessor.signed32 28).size ≤ 32 ∧
    (Accessor.unsigned8 4).addr < 5 ∧ 32 < (Accessor.unsigned16 31).addr + (Accessor.unsigned16 31).size := by decide

/-- A canonical buffer, an instruction and its next state: for the statements about every instruction's next state. -/
theorem witness_next_state : (nearlyDone 2).msg.wf = true ∧ ∃ t, exec .type02Sensor (nearlyDone 2) = .next t :=
  ⟨by decide, _, rfl⟩

set_option maxRecDepth 4000 in
/-- A feed that reports: the statements on reports, counters and the reset after a message. -/
theorem witness_report : (Instr.feed 0).isEvent = true ∧
    nextHas (exec (.feed 0) (nearlyDone 2)) (fun t => decide (t.out ≠ .none)) = true := by decide

theorem witness_policies : (State.powerOn 0 false).forwardInvalid = false ∧ (State.powerOn 0 true).forwardInvalid = true := by
  decide

set_option maxRecDepth 4000 in
theorem witness_settled_step : (nearlyDone 3).Settled ∧ nextHas (step (nearlyDone 3)) (fun _ => true) = true := by decide

/-- Two locked states at one place with different bits and histories. -/
theorem witness_same_place : SamePlace (locked 3 31) { locked 4 31 with bits := ⟨PerState.all 5, PerState.all 6⟩ } ∧
    (locked 3 31).sync = true := ⟨⟨rfl, rfl, rfl, rfl, rfl⟩, rfl⟩

/-- Two states that differ in the buffer that is not current. -/
theorem witness_stale : SameButStale State.reset { State.reset with cost := ⟨startMetrics, PerState.all 9⟩ } :=
  ⟨rfl, rfl, rfl⟩

/-- The deliveries of a trace, with one timestamp. -/
def deliveries (tokens : List Token) : List InputEvent := (traceWords encTable tokens).map fun w => ⟨w, 7⟩

theorem deliveries_deliver (tokens : List Token) : Delivers encTable (deliveries tokens) tokens := by
  simp [Delivers, deliveries, Function.comp_def]

set_option maxRecDepth 4000 in
theorem witness_clean_frame :
    let body : List Byte := List.replicate 32 0
    let s := { State.reset with inputs := deliveries [.frame (makeMessage body)] }
    body.length = 32 ∧ Distinguishes State.reset.enc ∧ s.Settled ∧ s.sync = false ∧ s.reg = 0 ∧ s.inputs = deliveries [.frame (makeMessage body)] ++ [] ∧
    Delivers State.reset.enc (deliveries [.frame (makeMessage body)]) [.frame (makeMessage body)] ∧
    (deliveries [.frame (makeMessage body)]).getLast?.isSome = true := by
  refine ⟨rfl, by decide, by decide, rfl, rfl, by rw [List.append_nil], deliveries_deliver _, by decide⟩

set_option maxRecDepth 4000 in
theorem witness_batch_frame :
    let body : List Byte := List.replicate 32 0
    body.length = 32 ∧ Distinguishes State.reset.enc ∧ State.reset.Settled ∧ State.reset.sync = false ∧ State.reset.reg = 0 ∧
    Delivers State.reset.enc (deliveries [.frame (makeMessage body)]) [.frame (makeMessage body)] ∧
    (deliveries [.frame (makeMessage body)]).getLast?.isSome = true := by
  refine ⟨rfl, by decide, by decide, rfl, rfl, deliveries_deliver _, by decide⟩

/-- A batch and a sequence that have a next state. -/
theorem witness_batch : ∃ t, runBatch [⟨true, 1, 5⟩, ⟨false, 0, 6⟩] (locked 3 5) = ([], .next t) := ⟨_, rfl⟩

set_option maxRecDepth 4000 in
theorem witness_resync_frame :
    let body : List Byte := List.replicate 32 0
    let s := { locked 3 5 with inputs := deliveries [.resync, .frame (makeMessage body)] }
    body.length = 32 ∧ Distinguishes State.reset.enc ∧ s.inputs = deliveries [.resync, .frame (makeMessage body)] ++ [] ∧
    Delivers State.reset.enc (deliveries [.resync, .frame (makeMessage body)]) [.resync, .frame (makeMessage body)] ∧
    (deliveries [.resync, .frame (makeMessage body)]).getLast?.isSome = true := by
  refine ⟨rfl, by decide, by rw [List.append_nil], deliveries_deliver _, by decide⟩

end Sys2Proof.Tests
end

section
/-! PROOFS. The descrambler (43_descrambler.md R135). -/

namespace Sys2Proof.Machine

/-- The model's count of LFSR steps is the library's iteration of one step. -/
theorem lfsrSteps_eq_iterate (n : Nat) (l : BitVec 9) : lfsrSteps n l = lfsrStep^[n] l := by
  induction n generalizing l with
  | zero => rfl
  | succ n ih => rw [lfsrSteps, ih, Function.iterate_succ_apply]

/-- The whitening byte is bits 7 to 0 of the register: bit 8 takes no part. -/
theorem whitenByte_eq_extractLsb' (l : BitVec 9) : whitenByte l = l.extractLsb' 0 8 :=
  BitVec.setWidth_eq_extractLsb' (by decide)

/-- A byte of the buffer after DESCR.BYTE: the addressed one is whitened, every other one stands. -/
theorem descrByte_byteAt {s : State} (hw : s.msg.wf = true) (i a : Nat) :
    (descrByte s i).msg.byteAt a =
      if a = i then s.msg.byteAt i ^^^ s.lfsr.extractLsb' 0 8 else s.msg.byteAt a := by
  rw [descrByte_msg, Memory.byteAt_store hw, whitenByte_eq_extractLsb']

/-- Settles O53: the byte by the store rule of the canonical buffer, the register by `lfsrSteps_eq_iterate`. -/
theorem descramblingOneByteAdvancesEightSteps : Obligations.DescramblingOneByteAdvancesEightSteps := by
  intro s i hw _
  refine ⟨?byte, ?others, ?register, ?frame⟩
  case byte => rw [descrByte_byteAt hw, if_pos rfl]
  case others => exact fun a ha => by rw [descrByte_byteAt hw, if_neg ha]
  case register => rw [descrByte_lfsr, lfsrSteps_eq_iterate]
  case frame => rfl

end Sys2Proof.Machine
end

section
/-! PROOFS. The received CRC and its comparison (44_crc.md R141, R142). -/

namespace Sys2Proof.Machine

/-- The big-endian 2-byte value as a number: the byte at the lower address is the high one (20_memory.md R71). -/
theorem be16_toNat (m : Memory) (a : Nat) :
    (be16 m a).toNat = (m.byteAt a).toNat * 256 + (m.byteAt (a + 1)).toNat := by
  have low : (m.byteAt (a + 1)).toNat < 2 ^ 8 := (m.byteAt (a + 1)).isLt
  rw [be16, BitVec.toNat_append, ← Nat.shiftLeft_add_eq_or_of_lt low, Nat.shiftLeft_eq]

/-- CRC.CHECK passes just when the whole registers are equal (44_crc.md R142). -/
theorem crcValid_iff (s : State) : crcValid s = true ↔ s.crc = s.rxcrc := decide_eq_true_iff

/-- Settles O36: the loaded register is `crcRxOf` of the buffer, valued by `be16_toNat`; the verdict by `crcValid_iff`. -/
theorem receivedCrcIsBigEndianAndComparedWhole : Obligations.ReceivedCrcIsBigEndianAndComparedWhole := by
  refine ⟨fun s => ⟨crcRxOf s.msg, ?frame, ?value⟩, crcValid_iff⟩
  case frame => rfl
  case value => exact be16_toNat s.msg 32

end Sys2Proof.Machine
end

section
/-! PROOFS. The fields every record carries (45_dispatcher.md R147). -/

namespace Sys2Proof.Machine

/-- The little-endian 2-byte value as a number: the byte at the lower address is the low one (20_memory.md R70). -/
theorem le16_toNat (m : Memory) (a : Nat) :
    (le16 m a).toNat = (m.byteAt a).toNat + 256 * (m.byteAt (a + 1)).toNat := by
  have low : (m.byteAt a).toNat < 2 ^ 8 := (m.byteAt a).isLt
  rw [le16, BitVec.toNat_append, Nat.shiftLeft_eq, Nat.mul_comm, ← Nat.two_pow_add_eq_or_of_lt low, Nat.add_comm]

@[simp] theorem recordOf_serial (k : Kind) (t : TypeCode) (s : State) : (recordOf k t s).serial = le16 s.msg 0 := rfl
@[simp] theorem recordOf_rtime (k : Kind) (t : TypeCode) (s : State) : (recordOf k t s).rtime = le16 s.msg 2 := rfl
@[simp] theorem recordOf_freq (k : Kind) (t : TypeCode) (s : State) : (recordOf k t s).freq = s.freq := rfl

/-- Settles O54: the two 16-bit fields are little-endian reads at 0 and 2, valued by `le16_toNat`; the frequency is the
configuration's. -/
theorem everyRecordCarriesTheCommonFields : Obligations.EveryRecordCarriesTheCommonFields := by
  intro k t s
  refine ⟨?serial, ?rtime, ?freq⟩
  case serial => rw [recordOf_serial, le16_toNat]
  case rtime => rw [recordOf_rtime, le16_toNat]
  case freq => exact recordOf_freq k t s

end Sys2Proof.Machine
end

section
/-! PROOFS. The two word formats: decoding, encoding and the rows of the opcode table (30_encoding.md sections 1 and 3). -/

namespace Sys2Proof

/-- An event word is read back from its three fields. -/
theorem decodeEvent_eventWord (r v b : Bit) :
    decodeEvent (eventWord r v b) =
      if r = 0 then (if v = 0 then .idle b else .feed b) else (if v = 0 then .resync b else .resyncFeed b) := by
  revert r v b; decide

/-- Every event word is the encoding of the event it decodes to. -/
theorem encode_decodeEvent (w : EventWord) : encode (decodeEvent w) = .event w := by
  revert w; decide

/-- A code that no row lists decodes to the fallback (30_encoding.md R93, lowest priority). -/
theorem decodeType_unlisted {t : TypeCode} (h : listedCodes.contains t = false) : decodeType t = .typeOtherBase t := by
  unfold decodeType
  split
  case h_18 => rfl
  all_goals exact absurd h (by decide)

/-- A fact about every type code, from the seventeen that a row lists and from the others. -/
theorem typeCode_cases {P : TypeCode → Prop} (listed : ∀ c ∈ listedCodes, P c)
    (other : ∀ t, listedCodes.contains t = false → P t) (t : TypeCode) : P t := by
  cases h : listedCodes.contains t
  case true => exact listed t (List.contains_iff_mem.mp h)
  case false => exact other t h

/-- A type code decodes to a well-formed instruction: the fallback is left to the codes that no row lists. -/
theorem decodeType_wellFormed (t : TypeCode) : (decodeType t).wellFormed = true := by
  induction t using typeCode_cases with
  | listed c hc => revert c; decide
  | other t h => rw [decodeType_unlisted h, Instr.wellFormed, h]; rfl

/-- Every type code is the encoding of the instruction it decodes to. -/
theorem encode_decodeType (t : TypeCode) : encode (decodeType t) = .typeCode t := by
  induction t using typeCode_cases with
  | listed c hc => revert c; decide
  | other t h => rw [decodeType_unlisted h, encode]

/-- A well-formed instruction is read back from its word. -/
theorem decode_encode {i : Instr} (h : i.wellFormed = true) : decode (encode i) = i := by
  cases i
  case idle b => exact decodeEvent_eventWord 0 0 b
  case feed b => exact decodeEvent_eventWord 0 1 b
  case resync b => exact decodeEvent_eventWord 1 0 b
  case resyncFeed b => exact decodeEvent_eventWord 1 1 b
  case typeOtherBase t => exact decodeType_unlisted (Bool.not_eq_true' _ ▸ h)
  all_goals rfl

/-- Settles O3: one direction by the constructors, the other by the two formats. -/
theorem decodeAndEncodeAgree : Obligations.DecodeAndEncodeAgree := by
  refine ⟨fun i => decode_encode, fun c => ?_⟩
  cases c with
  | event w => exact ⟨by revert w; decide, encode_decodeEvent w⟩
  | typeCode t => exact ⟨decodeType_wellFormed t, encode_decodeType t⟩

/-! ### The rows -/

/-- A row that fixes bits fixes both flags of an event word, or a whole listed type code. -/
theorem row_cases {i : Instr} (hm : i.row.mask ≠ 0) :
    (i.row.format = .evt ∧ i.row.mask = 0x6) ∨ (i.row.format = .msg ∧ i.row.mask = 0xFF ∧
      (decodeType (BitVec.ofNat 8 i.row.value)).row = i.row) := by
  cases i
  case idle | feed | resync | resyncFeed => exact .inl ⟨rfl, rfl⟩
  case typeOtherBase => exact absurd rfl hm
  all_goals exact .inr ⟨rfl, rfl, rfl⟩

/-- A word that fits a row which fixes bits decodes to an instruction of that row. -/
theorem decode_row_of_fits {c : Coded} {i : Instr} (hm : i.row.mask ≠ 0) (hf : i.row.fits c = true) :
    (decode c).row = i.row := by
  cases c with
  | event w =>
    have flags : ∀ v : EventWord, (decodeEvent v).row = ⟨.evt, 0x6, v.toNat &&& 0x6⟩ := by decide
    simp only [Row.fits, Bool.and_eq_true, beq_iff_eq] at hf
    obtain ⟨format, value⟩ := hf
    rcases row_cases hm with ⟨-, mask⟩ | ⟨message, -⟩
    · rw [decode, flags, ← mask, value, ← format]
    · exact absurd (message.symm.trans format) (by decide)
  | typeCode t =>
    simp only [Row.fits, Bool.and_eq_true, beq_iff_eq] at hf
    obtain ⟨format, value⟩ := hf
    rcases row_cases hm with ⟨event, -⟩ | ⟨-, mask, own⟩
    · exact absurd (event.symm.trans format) (by decide)
    · have whole : t.toNat &&& 0xFF = t.toNat := by
        rw [Nat.and_two_pow_sub_one_eq_mod t.toNat 8, Nat.mod_eq_of_lt t.isLt]
      rw [mask, whole] at value
      rw [← own, ← value, BitVec.ofNat_toNat, BitVec.setWidth_eq, decode]

/-- A well-formed instruction's word fits its row. -/
theorem row_fits_encode {i : Instr} (h : i.wellFormed = true) : i.row.fits (encode i) = true := by
  cases i
  case idle b => exact Laws.RowFits.idle b h
  case feed b => exact Laws.RowFits.feed b h
  case resync b => exact Laws.RowFits.resync b h
  case resyncFeed b => exact Laws.RowFits.resyncFeed b h
  case typeOtherBase t => exact Laws.RowFits.typeOtherBase t h
  all_goals rfl

/-- Settles O4: a word decodes to the one row that fixes bits and fits it, so two such rows are one; and a word is the
encoding of what it decodes to, which fits its own row. -/
theorem tableRowsDoNotOverlap : Obligations.TableRowsDoNotOverlap := by
  refine ⟨?overlap, ?own, fun c i => decode_row_of_fits⟩
  case overlap =>
    intro c i j hi hj fi fj
    rw [← decode_row_of_fits hi fi, decode_row_of_fits hj fj]
  case own =>
    intro c
    obtain ⟨wellFormed, agree⟩ := decodeAndEncodeAgree.2 c
    have fits := row_fits_encode wellFormed
    rwa [agree] at fits

/-- Settles O5: nine closed words, each read by its decoder. -/
theorem writtenOutWordsDecode : Obligations.WrittenOutWordsDecode :=
  ⟨rfl, rfl, rfl, rfl, rfl, rfl, rfl, rfl, rfl⟩

end Sys2Proof
end

section
/-! PROOFS. Reads of the message buffer (20_memory.md R70, R71, R75, R77). -/

namespace Sys2Proof.Machine

/-- An access that ends inside the buffer is answered. -/
theorem checkAccess_inside {α : Type} {a n : Nat} (h : a + n ≤ 36) (v : α) : checkAccess a n v = .ok v := if_pos h

/-- An access that ends outside the buffer faults, naming its address. -/
theorem checkAccess_outside {α : Type} {a n : Nat} (h : 36 < a + n) (v : α) :
    checkAccess a n v = .error (.outsideBuffer a) := if_neg (Nat.not_le.mpr h)

/-- A byte put below a value. -/
theorem toNat_append_byte {n : Nat} (x : BitVec n) (b : Byte) : (x ++ b).toNat = x.toNat * 256 + b.toNat := by
  rw [BitVec.toNat_append, ← Nat.shiftLeft_add_eq_or_of_lt b.isLt, Nat.shiftLeft_eq]

/-- The little-endian 4-byte value as a number: the byte at the lowest address is the lowest one. -/
theorem le32_toNat (m : Memory) (a : Nat) :
    (le32 m a).toNat = (m.byteAt a).toNat + 256 * (m.byteAt (a + 1)).toNat + 65536 * (m.byteAt (a + 2)).toNat +
      16777216 * (m.byteAt (a + 3)).toNat := by
  rw [le32, toNat_append_byte, toNat_append_byte, toNat_append_byte]
  omega

/-- Settles O37: the bounds by `checkAccess`, the values by the assembly of bytes. -/
theorem memoryReadsAssembleBytes : Obligations.MemoryReadsAssembleBytes := by
  intro m a
  refine ⟨fun h => checkAccess_inside h _, fun h => checkAccess_outside h _,
    fun h => ⟨_, checkAccess_inside h _, le16_toNat m a⟩, fun h => checkAccess_outside h _,
    fun h => ⟨_, checkAccess_inside h _, ?four⟩, fun h => checkAccess_outside h _,
    fun h => ⟨_, checkAccess_inside h _, ?big⟩, fun h => checkAccess_outside h _⟩
  case four => exact le32_toNat m a
  case big => rw [be16_toNat, Nat.mul_comm]

/-- A field of one byte more begins with its first byte. -/
theorem bytesFrom_succ (m : Memory) (a n : Nat) : m.bytesFrom a (n + 1) = m.byteAt a :: m.bytesFrom (a + 1) n := by
  simp only [Memory.bytesFrom, List.range_succ_eq_map, List.map_cons, List.map_map, Nat.add_zero, List.cons.injEq,
    true_and]
  exact List.map_congr_left fun i _ => congrArg m.byteAt (by simp only [Nat.succ_eq_add_one]; omega)

/-- The bytes of a string are the first `k` of its field, none of them zero, up to its end or a zero byte. -/
theorem stringBytes_bytesFrom (m : Memory) (a n : Nat) :
    ∃ k : Nat, k ≤ n ∧ stringBytes (m.bytesFrom a n) = m.bytesFrom a k ∧ (∀ x ∈ m.bytesFrom a k, x ≠ 0x00) ∧
      (k = n ∨ m.byteAt (a + k) = 0x00) := by
  induction n generalizing a with
  | zero => exact ⟨0, le_rfl, rfl, by simp [Memory.bytesFrom], .inl rfl⟩
  | succ n ih =>
    by_cases hz : m.byteAt a = 0x00
    · exact ⟨0, Nat.zero_le _, by simp [stringBytes, hz, Memory.bytesFrom], by simp [Memory.bytesFrom],
        .inr hz⟩
    · obtain ⟨k, bound, bytes, nonzero, stop⟩ := ih (a + 1)
      refine ⟨k + 1, by omega, ?_, ?_, ?_⟩
      · rw [bytesFrom_succ, bytesFrom_succ, ← bytes, stringBytes, List.takeWhile_cons_of_pos (by simpa using hz)]
        rfl
      · rw [bytesFrom_succ]
        exact List.forall_mem_cons.mpr ⟨hz, nonzero⟩
      · rw [show a + (k + 1) = a + 1 + k by omega]
        exact stop.imp (congrArg (· + 1)) id

/-- Settles O38: the bounds allow the access, and `stringBytes_bytesFrom` says what is kept. -/
theorem stringsStopAtTheFirstZero : Obligations.StringsStopAtTheFirstZero := by
  intro m a n h
  obtain ⟨k, bound, bytes, rest⟩ := stringBytes_bytesFrom m a n
  exact ⟨k, bound, by rw [memStr, checkAccess_inside h, bytes], rest⟩

/-- A field accessor's check, spelled out (20_memory.md R75, decision D35). -/
theorem accessor_wellFormed_iff (f : Accessor) : f.wellFormed = true ↔ 5 ≤ f.addr ∧ f.addr + f.size ≤ 32 :=
  decide_eq_true_iff

/-- Settles O39: the two branches of the read, by the accessor's check. -/
theorem accessorsOutsideThePayloadAreRefused : Obligations.AccessorsOutsideThePayloadAreRefused := by
  intro m f
  refine ⟨fun low high => if_pos ((accessor_wellFormed_iff f).mpr ⟨low, high⟩), fun outside => if_neg fun inside => ?_⟩
  obtain ⟨low, high⟩ := (accessor_wellFormed_iff f).mp inside
  omega

end Sys2Proof.Machine
end
section
/-! PROOFS. The dispatcher: what a type code's instruction does (45_dispatcher.md). -/

namespace Sys2Proof.Machine

/-- The record a type code's instruction emits is the one that the claims spell out. -/
theorem recordOf_eq_recordIn (k : Kind) (t : TypeCode) (s : State) : recordOf k t s = Claims.recordIn k t s := by
  simp [recordOf, Claims.recordIn, crcValid, serialOf, rtimeOf, le16, messageOf, Memory.bytesFrom, msgBytes]

/-- What every type code does, with the record spelled out. -/
theorem dispatchAs_eq (k : Kind) (t : TypeCode) (s : State) :
    dispatchAs k t s = .next { s with out := .record (Claims.recordIn k t s) } := by
  rw [← recordOf_eq_recordIn]; rfl

/-- The instruction of an unlisted code has the Base kind. -/
theorem kindOf_unlisted {t : TypeCode} (h : listedCodes.contains t = false) : kindOf t = .base := by
  unfold kindOf
  split
  case h_18 => rfl
  all_goals exact absurd h (by decide)

/-- The instruction a type code decodes to emits the record of the lookup table's kind (45_dispatcher.md R148). -/
theorem exec_decodeType (t : TypeCode) (s : State) : exec (decodeType t) s = dispatchAs (kindOf t) t s := by
  induction t using typeCode_cases with
  | listed c hc =>
    revert c
    simp only [listedCodes, List.forall_mem_cons]
    exact ⟨rfl, rfl, rfl, rfl, rfl, rfl, rfl, rfl, rfl, rfl, rfl, rfl, rfl, rfl, rfl, rfl, rfl, by simp⟩
  | other t h => rw [decodeType_unlisted h, kindOf_unlisted h]; rfl

/-- The dispatcher's own selection runs the instruction that the code decodes to. -/
theorem dispatchCode_eq_exec (t : TypeCode) (s : State) : dispatchCode t s = exec (decodeType t) s := by
  induction t using typeCode_cases with
  | listed c hc =>
    revert c
    simp only [listedCodes, List.forall_mem_cons]
    exact ⟨rfl, rfl, rfl, rfl, rfl, rfl, rfl, rfl, rfl, rfl, rfl, rfl, rfl, rfl, rfl, rfl, rfl, by simp⟩
  | other t h => rw [dispatchCode, decodeType_unlisted h]; rfl

/-- DISPATCH emits the record of byte 4's kind and code, and changes nothing else (45_dispatcher.md R146). -/
theorem dispatch_eq (s : State) :
    dispatch s = .next (emit (.record (recordOf (kindOf (typeOf s.msg)) (typeOf s.msg) s)) s) :=
  (dispatchCode_eq_exec _ s).trans (exec_decodeType _ s)

/-- The lookup table's kinds have the codes that 45_dispatcher.md R148 lists. -/
theorem kindCode_kindOf (t : TypeCode) : (kindCode (kindOf t)).toNat = Claims.listedKindCode t := by
  revert t; decide

/-- Settles O16: each arm is `dispatchAs` of its row's kind and code. -/
theorem listedTypesEmitTheirRecords : Obligations.ListedTypesEmitTheirRecords := by
  intro s
  have arm := fun k t => dispatchAs_eq k t s
  exact ⟨arm _ _, arm _ _, arm _ _, arm _ _, arm _ _, arm _ _, arm _ _, arm _ _, arm _ _, arm _ _, arm _ _, arm _ _,
    arm _ _, arm _ _, arm _ _, arm _ _, arm _ _⟩

/-- Settles O17: the fallback's arm, and the codes that no row lists. -/
theorem unlistedTypesEmitBaseRecords : Obligations.UnlistedTypesEmitBaseRecords := by
  refine ⟨fun t s => dispatchAs_eq .base t s, fun t h => decodeType_unlisted ?_⟩
  revert t; decide

/-- Settles O18: the arm by `exec_decodeType`, the kind's number by `kindCode_kindOf`. -/
theorem everyTypeCodeGivesItsListedKind : Obligations.EveryTypeCodeGivesItsListedKind := fun t s =>
  ⟨kindOf t, (exec_decodeType t s).trans (dispatchAs_eq _ t s), kindCode_kindOf t, rfl⟩

/-- Settles O19: the selection at byte 4. -/
theorem dispatcherRunsTheDecodedTypeCode : Obligations.DispatcherRunsTheDecodedTypeCode :=
  fun s => dispatchCode_eq_exec _ s

/-- A kind's code is its place in the list of kinds (30_encoding.md R95). -/
theorem kindCode_toNat (k : Kind) : (kindCode k).toNat = k.ctorIdx := by
  cases k <;> rfl

/-- Settles O20: a kind is its place in the list, and there are twelve. -/
theorem kindCodesAreDistinct : Obligations.KindCodesAreDistinct := by
  refine ⟨fun k => by cases k <;> decide, fun k l same => ?_⟩
  have place : k.ctorIdx = l.ctorIdx := by rw [← kindCode_toNat, ← kindCode_toNat, same]
  rw [← Kind.ofNat_ctorIdx k, ← Kind.ofNat_ctorIdx l, place]

end Sys2Proof.Machine
end

section
/-! PROOFS. Symbols and words: the packing of sixteen symbols, and the deinterleaver (41_deinterleaver.md). -/

namespace Sys2Proof.Machine

/-- A word with one more symbol has that symbol in its low two bits, and the others two bits higher. -/
theorem packSymbols_append (xs : List Symbol) (x : Symbol) :
    packSymbols (xs ++ [x]) = (packSymbols xs <<< 2) ||| x.setWidth 32 := by
  simp [packSymbols]

/-- Bit `i` of a packed word belongs to the symbol that lies `i / 2` places before the last. -/
theorem getLsbD_packSymbols (xs : List Symbol) {i : Nat} (hi : i < 32) :
    (packSymbols xs).getLsbD i = (xs.reverse.getD (i / 2) 0).getLsbD (i % 2) := by
  induction xs using List.reverseRecOn generalizing i with
  | nil => simp [packSymbols]
  | append_singleton xs x ih =>
    rw [packSymbols_append, BitVec.getLsbD_or, BitVec.getLsbD_shiftLeft, BitVec.getLsbD_setWidth, List.reverse_append]
    by_cases low : i < 2
    · rw [Nat.div_eq_of_lt low, Nat.mod_eq_of_lt low]
      simp [low, hi]
    · have high : x.getLsbD i = false := BitVec.getLsbD_of_ge x i (by omega)
      obtain ⟨j, rfl⟩ : ∃ j, i = j + 2 := ⟨i - 2, by omega⟩
      rw [high, show (j + 2) / 2 = j / 2 + 1 by omega, Nat.add_mod_right, Nat.add_sub_cancel, ih (by omega)]
      simp [hi, low]

/-- Bit `j` of symbol `k` of a word (30_encoding.md R90). -/
theorem getLsbD_symbolAt (w : Group) (k j : Nat) :
    (symbolAt w k).getLsbD j = (decide (j < 2) && w.getLsbD (30 - 2 * k + j)) := by
  rw [symbolAt, BitVec.getLsbD_extractLsb']

/-- Symbol `k` of sixteen packed symbols is the `k`th of them. -/
theorem symbolAt_packSymbols {xs : List Symbol} (length : xs.length = 16) {k : Nat} (hk : k < 16) :
    symbolAt (packSymbols xs) k = xs.getD k 0 := by
  refine BitVec.eq_of_getLsbD_eq fun j hj => ?_
  rw [getLsbD_symbolAt, getLsbD_packSymbols xs (by omega), show (30 - 2 * k + j) / 2 = 15 - k by omega,
    show (30 - 2 * k + j) % 2 = j by omega, decide_eq_true hj, Bool.true_and]
  congr 1
  rw [List.getD_eq_getElem _ _ (by simp; omega), List.getD_eq_getElem _ _ (by omega), List.getElem_reverse]
  congr 1
  omega

/-- The symbols of sixteen packed symbols are those symbols. -/
theorem symbolsOf_packSymbols {xs : List Symbol} (length : xs.length = 16) : symbolsOf (packSymbols xs) = xs := by
  refine List.ext_getElem (by rw [symbolsOf_length, length]) fun k _ hk => ?_
  have := symbolAt_packSymbols length (k := k) (by omega)
  simpa [symbolsOf, hk] using this

/-- A word is known from its sixteen symbols. -/
theorem group_ext {v w : Group} (h : ∀ k, k < 16 → symbolAt v k = symbolAt w k) : v = w := by
  refine BitVec.eq_of_getLsbD_eq fun i hi => ?_
  have bit := congrArg (·.getLsbD (i % 2)) (h (15 - i / 2) (by omega))
  simp only [getLsbD_symbolAt, show 30 - 2 * (15 - i / 2) + i % 2 = i by omega, show i % 2 < 2 by omega, decide_true,
    Bool.true_and] at bit
  exact bit

/-- The deinterleaver packs the source symbols at the offsets, in order (41_deinterleaver.md R109). -/
theorem deinterleave_eq_packSymbols (w : Group) :
    deinterleave w = packSymbols ((List.range 16).map fun k => (w >>> deintOffset k).extractLsb' 0 2) := by
  rw [packSymbols, List.foldl_map]; rfl

/-- Output symbol `k` is the source symbol at its offset (41_deinterleaver.md R109, R110). -/
theorem symbolAt_deinterleave (w : Group) {k : Nat} (hk : k < 16) :
    symbolAt (deinterleave w) k = (w >>> deintOffset k).extractLsb' 0 2 := by
  rw [deinterleave_eq_packSymbols, symbolAt_packSymbols (by simp) hk]
  simp [hk]

/-- Settles O21: the offset spelled out. -/
theorem deinterleavedSymbolsComeFromTheirOffsets : Obligations.DeinterleavedSymbolsComeFromTheirOffsets :=
  fun w _ hk => symbolAt_deinterleave w hk

/-- The source symbol at an offset is the symbol of the word that lies as far from its other end. -/
theorem extractLsb'_deintOffset (w : Group) {k : Nat} (hk : k < 16) :
    (w >>> deintOffset k).extractLsb' 0 2 = symbolAt w (15 - deintOffset k / 2) := by
  refine BitVec.eq_of_getLsbD_eq fun j hj => ?_
  have offset : 30 - 2 * (15 - deintOffset k / 2) = deintOffset k := by simp only [deintOffset]; omega
  rw [getLsbD_symbolAt, offset, BitVec.getLsbD_extractLsb', BitVec.getLsbD_ushiftRight, Nat.zero_add]

/-- The deinterleaver is its own inverse: the place a symbol comes from takes its symbol from there
(41_deinterleaver.md R112). -/
theorem deinterleave_deinterleave (w : Group) : deinterleave (deinterleave w) = w := by
  refine group_ext fun k hk => ?_
  have back : 15 - deintOffset (15 - deintOffset k / 2) / 2 = k := by simp only [deintOffset]; omega
  rw [symbolAt_deinterleave _ hk, extractLsb'_deintOffset _ hk, symbolAt_deinterleave _ (by omega),
    extractLsb'_deintOffset _ (by omega), back]

/-- Settles O22, by the lemma on one symbol and its place. -/
theorem deinterleaveTwiceIsIdentity : Obligations.DeinterleaveTwiceIsIdentity := deinterleave_deinterleave

end Sys2Proof.Machine
end

section
/-! PROOFS. The trellis: code table, predecessors, add-compare-select, selection, and the true path of a noise-free
reception (42_viterbi.md sections 1, 2, 3 and 5). -/

namespace Sys2Proof.Machine

/-! ### The code table and the predecessors -/

/-- A table is read at `(q << 1) | u` of its list (42_viterbi.md R117). -/
theorem expected_tableOf (xs : List Symbol) (q : TrellisState) (u : Bit) :
    expected (tableOf xs) q u = xs.getD (q ++ u).toNat 0 := by
  have index : ∀ (q : TrellisState) (u : Bit), (q ++ u).toNat = if u = 0 then 2 * q.toNat else 2 * q.toNat + 1 := by
    decide
  rw [expected, tableOf, PerState.get_ofFn, Double.get, index]
  split <;> rfl

/-- Settles O23: the index by `expected_tableOf`, the default table entry by entry. -/
theorem expectedSymbolsFollowTheGenerators : Obligations.ExpectedSymbolsFollowTheGenerators := by
  refine ⟨expected_tableOf, ?generators, ?complements, ?distinguishes, fun _ _ => rfl, rfl⟩
  case generators => decide
  case complements => decide
  case distinguishes => decide

/-- A state's predecessors, on its transition bit (42_viterbi.md R116). -/
theorem nextState_eq_iff (d q : TrellisState) (u : Bit) :
    nextState q u = d ↔ u = transBit d ∧ (q = pred0 d ∨ q = pred1 d) := by
  revert d q u; decide

/-- Settles O24: eight states, two predecessors each. -/
theorem predecessorsAreThoseThatLand : Obligations.PredecessorsAreThoseThatLand := nextState_eq_iff

/-! ### Add-compare-select -/

/-- The saturation as a number (42_viterbi.md R123). -/
theorem sat8_toNat (n : Nat) : (sat8 n).toNat = min 255 n := by
  rw [sat8, costMax, BitVec.toNat_ofNat, Nat.mod_eq_of_lt (by omega)]

/-- The branch metric is the number of bits in which two symbols differ. -/
theorem hw2_xor (x y : Symbol) : hw2 (x ^^^ y) = Claims.hamming x y := by
  revert x y; decide

/-- The metric of a destination through a predecessor, as a number (42_viterbi.md R120). -/
theorem pathMetric_toNat (e : CodeTable) (c : PerState Metric) (r : Symbol) (d q : TrellisState) :
    (pathMetric e c r d q).toNat = min 255 ((c.get q).toNat + Claims.hamming r (expected e q (transBit d))) := by
  rw [pathMetric, sat8_toNat, hw2_xor]

/-- The compare of VIT.ACS, on the numbers. -/
theorem firstWins_iff (e : CodeTable) (c : PerState Metric) (r : Symbol) (d : TrellisState) :
    firstWins e c r d = true ↔ (pathMetric e c r d (pred0 d)).toNat ≤ (pathMetric e c r d (pred1 d)).toNat := by
  rw [firstWins, decide_eq_true_iff, BitVec.le_def]

/-- The new metric is the smaller of the two. -/
theorem acsMetric_toNat (e : CodeTable) (c : PerState Metric) (r : Symbol) (d : TrellisState) :
    (acsMetric e c r d).toNat = min (pathMetric e c r d (pred0 d)).toNat (pathMetric e c r d (pred1 d)).toNat := by
  rw [acsMetric]
  split
  · next first => rw [min_eq_left ((firstWins_iff ..).mp first)]
  · next second => rw [min_eq_right (Nat.le_of_not_le (second ∘ (firstWins_iff ..).mpr))]

/-- The new history is that of the predecessor with the smaller metric, the first one on a tie. -/
theorem acsHistory_eq (e : CodeTable) (c : PerState Metric) (h : PerState History) (r : Symbol) (d : TrellisState) :
    acsHistory e c h r d = appendBit (if (pathMetric e c r d (pred0 d)).toNat ≤ (pathMetric e c r d (pred1 d)).toNat
      then h.get (pred0 d) else h.get (pred1 d)) (transBit d) := by
  simp only [acsHistory, firstWins_iff]

/-- Settles O25: the new buffer by `acsMetric_toNat` and `acsHistory_eq`, the current one by the register file's rules. -/
theorem acsKeepsTheCheaperPath : Obligations.AcsKeepsTheCheaperPath := by
  intro r s d
  refine ⟨?metric, ?history, ?currentCost, ?currentBits, rfl⟩
  case metric =>
    rw [vitACS_cost, Double.get_set_same, PerState.get_ofFn, acsMetric_toNat, pathMetric_toNat, pathMetric_toNat]
    rfl
  case history =>
    rw [vitACS_bits, Double.get_set_same, PerState.get_ofFn, acsHistory_eq, pathMetric_toNat, pathMetric_toNat]
    rfl
  case currentCost => rw [vitACS_cost, Double.get_set_other]
  case currentBits => rw [vitACS_bits, Double.get_set_other]

/-! ### Selection -/

/-- One round of the scan of `argmin`: the earlier state is kept unless the later one has a smaller metric. -/
abbrev scanRound (c : PerState Metric) (sel q : TrellisState) : TrellisState := if c.get q < c.get sel then q else sel

/-- The scan over states of rising number ends at one of least metric, the lowest of those. -/
theorem scan_first_least (c : PerState Metric) : ∀ (qs : List TrellisState) (sel : TrellisState),
    (sel :: qs).Pairwise (· < ·) → ∀ q ∈ sel :: qs,
      c.get (qs.foldl (scanRound c) sel) ≤ c.get q ∧
      (c.get q = c.get (qs.foldl (scanRound c) sel) → qs.foldl (scanRound c) sel ≤ q)
  | [], sel, _, q, hq => by
    obtain rfl := List.mem_singleton.mp hq
    exact ⟨BitVec.le_refl _, fun _ => BitVec.le_refl _⟩
  | q' :: rest, sel, sorted, q, hq => by
    obtain ⟨above, sorted'⟩ := List.pairwise_cons.mp sorted
    obtain ⟨above', sorted''⟩ := List.pairwise_cons.mp sorted'
    rw [List.foldl_cons]
    by_cases smaller : c.get q' < c.get sel
    · have ih := scan_first_least c rest q' sorted'
      rw [scanRound, if_pos smaller]
      rcases List.mem_cons.mp hq with rfl | hq
      · have least := (ih q' (List.mem_cons_self ..)).1
        generalize c.get (rest.foldl (scanRound c) q') = x at least ⊢
        exact ⟨by bv_omega, fun same => by bv_omega⟩
      · exact ih q hq
    · have ih := scan_first_least c rest sel
        (List.pairwise_cons.mpr ⟨fun x hx => above x (List.mem_cons_of_mem _ hx), sorted''⟩)
      rw [scanRound, if_neg smaller]
      rcases List.mem_cons.mp hq with rfl | hq
      · exact ih q (List.mem_cons_self ..)
      · rcases List.mem_cons.mp hq with rfl | hq
        · obtain ⟨least, lowest⟩ := ih sel (List.mem_cons_self ..)
          have order := above q (List.mem_cons_self ..)
          generalize rest.foldl (scanRound c) sel = x at least lowest ⊢
          exact ⟨by bv_omega, fun same => by have := lowest (by bv_omega); bv_omega⟩
        · exact ih q (List.mem_cons_of_mem _ hq)

/-- `argmin` takes a state of least metric, the lowest of those (00_scope.md R29, decision D16). -/
theorem argmin_first_least (c : PerState Metric) (q : TrellisState) :
    c.get (argmin c) ≤ c.get q ∧ (c.get q = c.get (argmin c) → argmin c ≤ q) := by
  have all : ∀ q : TrellisState, q ∈ ([0, 1, 2, 3, 4, 5, 6, 7] : List TrellisState) := by decide
  exact scan_first_least c [1, 2, 3, 4, 5, 6, 7] 0 (by decide) q (all q)

/-- Settles O26, by the scan's two properties. -/
theorem argminIsTheFirstLeastMetric : Obligations.ArgminIsTheFirstLeastMetric := argmin_first_least

/-! ### The true path of a noise-free reception (42_viterbi.md R133) -/

/-- State `q` alone has metric 0. -/
structure AloneAtZero (c : PerState Metric) (q : TrellisState) : Prop where
  zero : c.get q = 0
  others : ∀ q' : TrellisState, q' ≠ q → c.get q' ≠ 0

/-- Construction's metrics leave state 0 alone at metric 0. -/
theorem aloneAtZero_startMetrics : AloneAtZero startMetrics 0 := ⟨by decide, by decide⟩

/-- The state alone at metric 0 is the one selected. -/
theorem AloneAtZero.argmin_eq {c : PerState Metric} {q : TrellisState} (h : AloneAtZero c q) : argmin c = q := by
  by_contra other
  have least := (argmin_first_least c q).1
  rw [h.zero] at least
  exact h.others _ other (BitVec.le_zero_iff.mp least)

/-- Two symbols with no bit between them are equal. -/
theorem hamming_eq_zero {x y : Symbol} : Claims.hamming x y = 0 ↔ x = y := by
  revert x y; decide

/-- A metric is 0 as a word just when it is as a number. -/
theorem metric_eq_zero_iff (x : Metric) : x = 0 ↔ x.toNat = 0 := BitVec.toNat_inj.symm

/-- A path has metric 0 just when it comes from metric 0 and its symbol was received. -/
theorem pathMetric_toNat_eq_zero {e : CodeTable} {c : PerState Metric} {r : Symbol} {d q : TrellisState} :
    (pathMetric e c r d q).toNat = 0 ↔ c.get q = 0 ∧ r = expected e q (transBit d) := by
  rw [pathMetric_toNat, ← hamming_eq_zero, metric_eq_zero_iff]
  omega

/-- After the symbol of bit `u` from the state alone at metric 0, a path has metric 0 just when it is that state's on `u`,
if the two symbols of a state differ. -/
theorem pathMetric_true_path {e : CodeTable} {c : PerState Metric} {q : TrellisState} (he : Distinguishes e)
    (h : AloneAtZero c q) (u : Bit) (d q' : TrellisState) :
    (pathMetric e c (expected e q u) d q').toNat = 0 ↔ q' = q ∧ u = transBit d := by
  rw [pathMetric_toNat_eq_zero]
  constructor
  · rintro ⟨zero, symbol⟩
    obtain rfl : q' = q := by_contra fun other => h.others q' other zero
    have bits : ∀ u v : Bit, u ≠ v → (u = 0 ∧ v = 1) ∨ (u = 1 ∧ v = 0) := by decide
    refine ⟨rfl, by_contra fun differ => ?_⟩
    rcases bits _ _ differ with ⟨hu, hv⟩ | ⟨hu, hv⟩ <;> rw [hu, hv] at symbol
    · exact he q' symbol
    · exact he q' symbol.symm
  · rintro ⟨rfl, rfl⟩
    exact ⟨h.zero, rfl⟩

/-- After the symbol of bit `u` the next state on `u` alone has metric 0. -/
theorem aloneAtZero_acs {e : CodeTable} {c : PerState Metric} {q : TrellisState} (he : Distinguishes e)
    (h : AloneAtZero c q) (u : Bit) :
    AloneAtZero (PerState.ofFn (acsMetric e c (expected e q u))) (nextState q u) := by
  have zero_iff : ∀ d, acsMetric e c (expected e q u) d = 0 ↔ nextState q u = d := by
    intro d
    have path := pathMetric_true_path he h u d
    rw [nextState_eq_iff, metric_eq_zero_iff, acsMetric_toNat, Nat.min_eq_zero_iff,
      path, path, ← or_and_right, and_comm, eq_comm (a := pred0 d), eq_comm (a := pred1 d)]
  refine ⟨?_, fun q' other => ?_⟩
  · rw [PerState.get_ofFn, zero_iff]
  · rw [PerState.get_ofFn, Ne, zero_iff]
    exact other.symm

/-- After the symbol of bit `u` the next state's history is the sender's with `u` appended. -/
theorem acsHistory_true_path {e : CodeTable} {c : PerState Metric} {q : TrellisState} (he : Distinguishes e)
    (h : AloneAtZero c q) (hist : PerState History) (u : Bit) :
    acsHistory e c hist (expected e q u) (nextState q u) = appendBit (hist.get q) u := by
  obtain ⟨bit, sender⟩ := (nextState_eq_iff (nextState q u) q u).mp rfl
  have path := pathMetric_true_path he h u (nextState q u)
  rw [acsHistory_eq, ← bit]
  rcases sender with first | second
  · rw [if_pos (by rw [(path _).mpr ⟨first.symm, bit⟩]; exact Nat.zero_le _), ← first]
  · have apart : ∀ d : TrellisState, pred0 d ≠ pred1 d := by decide
    have rival : (pathMetric e c (expected e q u) (nextState q u) (pred0 (nextState q u))).toNat ≠ 0 := fun zero =>
      apart (nextState q u) (((path _).mp zero).1.trans second)
    rw [(path _).mpr ⟨second.symm, bit⟩, if_neg (by omega), ← second]

/-- The metrics that add-compare-select writes are the current ones once the step is counted. -/
theorem curCost_vitAdvance_vitACS (r : Symbol) (s : State) :
    curCost (vitAdvance (vitACS r s)) = PerState.ofFn (acsMetric s.enc (curCost s) r) := by
  rw [curCost, vitAdvance_cost, vitACS_cost, vitAdvance_p, vitACS_p, Double.get_set_same]

/-- The histories that add-compare-select writes are the current ones once the step is counted. -/
theorem curBits_vitAdvance_vitACS (r : Symbol) (s : State) :
    curBits (vitAdvance (vitACS r s)) = PerState.ofFn (acsHistory s.enc (curCost s) (curBits s) r) := by
  rw [curBits, vitAdvance_bits, vitACS_bits, vitAdvance_p, vitACS_p, Double.get_set_same]

/-- A noise-free trellis step keeps the true path. -/
theorem cleanStep {s : State} {q : TrellisState} (he : Distinguishes s.enc) (h : AloneAtZero (curCost s) q) (u : Bit) :
    AloneAtZero (curCost (vitAdvance (vitACS (expected s.enc q u) s))) (nextState q u) ∧
    (curBits (vitAdvance (vitACS (expected s.enc q u) s))).get (nextState q u) = appendBit ((curBits s).get q) u := by
  rw [curCost_vitAdvance_vitACS, curBits_vitAdvance_vitACS, PerState.get_ofFn]
  exact ⟨aloneAtZero_acs he h u, acsHistory_true_path he h _ u⟩

/-- Settles O29, by `cleanStep`. -/
theorem cleanStepKeepsTheTruePath : Obligations.CleanStepKeepsTheTruePath := by
  intro s q u he zero others
  obtain ⟨alone, history⟩ := cleanStep he ⟨zero, others⟩ u
  exact ⟨alone.zero, alone.others, history⟩

/-- The symbols of some input bits keep the true path from any state that is alone at metric 0. -/
theorem cleanSymbols (us : List Bit) : ∀ {s : State} {q : TrellisState}, Distinguishes s.enc → AloneAtZero (curCost s) q →
    AloneAtZero (curCost ((convolve s.enc q us).foldl (fun x r => vitAdvance (vitACS r x)) s)) (encoderState q us) ∧
    (curBits ((convolve s.enc q us).foldl (fun x r => vitAdvance (vitACS r x)) s)).get (encoderState q us) =
      us.foldl appendBit ((curBits s).get q) := by
  induction us with
  | nil => exact fun _ h => ⟨h, rfl⟩
  | cons u us ih =>
    intro s q he h
    obtain ⟨alone, history⟩ := cleanStep he h u
    rw [convolve, List.foldl_cons, encoderState, List.foldl_cons, List.foldl_cons, ← history]
    exact ih (s := vitAdvance (vitACS (expected s.enc q u) s)) he alone

/-- Settles O30: construction's metrics leave state 0 alone at metric 0, and the symbols keep the true path. -/
theorem cleanSymbolsDecodeExactly : Obligations.CleanSymbolsDecodeExactly := by
  intro us s he start
  obtain ⟨alone, history⟩ := cleanSymbols us he (start ▸ aloneAtZero_startMetrics)
  exact ⟨alone.zero, alone.others, alone.argmin_eq, history⟩

end Sys2Proof.Machine
end

section
/-! PROOFS. Emission and flush of decoded bytes (42_viterbi.md section 3). -/

namespace Sys2Proof.Machine

/-- The emission trigger, on the numbers (42_viterbi.md R125). -/
theorem emitDue_iff (s : State) : emitDue s = true ↔ s.nbits.toNat = 8 * s.nout.toNat + 32 := decide_eq_true_iff

/-- The final termination point is step 288. -/
theorem atFinalPoint_iff (s : State) : atFinalPoint s = true ↔ s.nbits = 288 := decide_eq_true_iff

/-- Selection, its forced points spelled out (42_viterbi.md R126). -/
theorem selectState_eq (s : State) :
    selectState s = if s.nbits = 280 ∨ s.nbits = 288 then 0 else argmin (curCost s) := by
  simp only [selectState, forcedPoint, decide_eq_true_eq]; rfl

/-- A byte with an address in the buffer is written there and counted. -/
theorem appendByte_inside {s : State} (h : s.nout.toNat < 36) (v : Byte) :
    appendByte v s = .next { s with msg := s.msg.store s.nout.toNat v, nout := s.nout + 1 } :=
  appendByte_eq_next.mpr ⟨h, rfl⟩

/-- A byte with no address in the buffer faults. -/
theorem appendByte_outside {s : State} (h : 36 ≤ s.nout.toNat) (v : Byte) :
    appendByte v s = .fault (.outsideBuffer s.nout.toNat) := by
  rw [appendByte, memWrite, if_neg (show ¬ s.nout.toNat < msgBytes from Nat.not_lt.mpr h), andThen_fault]

/-- Settles O27: nothing when no emission is due, and else the two outcomes of appending the selected state's byte. -/
theorem emissionAppendsTheTopByte : Obligations.EmissionAppendsTheTopByte := by
  intro s
  rw [← curCost, ← curBits, ← selectState_eq]
  refine ⟨fun early => ?idle, fun due inside => ?append, fun due outside => ?fault⟩
  case idle => exact if_neg (early ∘ (emitDue_iff s).mp)
  case append => exact (if_pos ((emitDue_iff s).mpr due)).trans (appendByte_inside inside _)
  case fault => exact (if_pos ((emitDue_iff s).mpr due)).trans (appendByte_outside outside _)

/-- Away from the final point there is nothing to flush. -/
theorem vitFlush_early {s : State} (h : s.nbits ≠ 288) : vitFlush s = .next s :=
  if_neg (h ∘ (atFinalPoint_iff s).mp)

/-- A round of the flush with room in the buffer. -/
theorem vitFlushLoop_inside {s : State} (h : s.nout.toNat < 36) (hist : History) (fuel rem : Nat) :
    vitFlushLoop hist (fuel + 1) rem s =
      vitFlushLoop hist fuel (rem - 8) { s with msg := s.msg.store s.nout.toNat (flushByte hist rem), nout := s.nout + 1 } := by
  rw [vitFlushLoop, if_pos (show s.nout.toNat < msgBytes from h), appendByte_inside h, andThen_next]

/-- The flush ends where the buffer does. -/
theorem vitFlushLoop_full {s : State} (h : 36 ≤ s.nout.toNat) (hist : History) (fuel rem : Nat) :
    vitFlushLoop hist fuel rem s = .next s := by
  cases fuel with
  | zero => rfl
  | succ fuel => exact if_neg (Nat.not_lt.mpr h)

/-- A byte taken from whole undelivered bits is a field of the history. -/
theorem flushByte_whole (h : History) {rem : Nat} (whole : 8 ≤ rem) : flushByte h rem = h.extractLsb' (rem - 8) 8 := by
  rw [flushByte, if_pos whole]
  exact BitVec.eq_of_getLsbD_eq fun i hi => by simp [hi]

/-- The flush after byte 32: the three bytes of state 0's history that are still to deliver (42_viterbi.md R128). -/
theorem vitFlush_final {s : State} (final : s.nbits = 288) (count : s.nout = 33) :
    vitFlush s = .next { s with
      msg := ((s.msg.store 33 (((curBits s).get 0).extractLsb' 16 8)).store 34 (((curBits s).get 0).extractLsb' 8 8)).store 35
        (((curBits s).get 0).extractLsb' 0 8)
      nout := 36 } := by
  have rounds : vitFlush s = vitFlushLoop ((curBits s).get 0) (33 + 1 + 1 + 1) 24 s := by
    rw [vitFlush, if_pos ((atFinalPoint_iff s).mpr final), final, count]; rfl
  rw [rounds, vitFlushLoop_inside (by rw [count]; decide), vitFlushLoop_inside (by simp [count]),
    vitFlushLoop_inside (by simp [count]), vitFlushLoop_full (by simp [count]), flushByte_whole _ (by decide),
    flushByte_whole _ (by decide), flushByte_whole _ (by decide)]
  simp [count]

/-- Settles O28: the state by `vitFlush_final`, its bytes by the store rule of the canonical buffer. -/
theorem flushAppendsTheLastThreeBytes : Obligations.FlushAppendsTheLastThreeBytes := by
  refine ⟨fun s => vitFlush_early, fun s final count wf => ⟨_, vitFlush_final final count, rfl, ?_⟩⟩
  have wf33 := Memory.store_wf wf (a := 33) (by decide) (((curBits s).get 0).extractLsb' 16 8)
  have wf34 := Memory.store_wf wf33 (a := 34) (by decide) (((curBits s).get 0).extractLsb' 8 8)
  simp only [Memory.byteAt_store wf34, Memory.byteAt_store wf33, Memory.byteAt_store wf]
  refine ⟨rfl, rfl, rfl, fun a outside => ?_⟩
  rw [if_neg (by omega), if_neg (by omega), if_neg (by omega)]

end Sys2Proof.Machine
end
section
/-! PROOFS. The descrambler and the CRC (43_descrambler.md, 44_crc.md). -/

namespace Sys2Proof.Machine

/-! ### The whitening register -/

/-- The feedback bit enters at bit 8. -/
theorem lfsrStep_top (l : BitVec 9) : (lfsrStep l).getLsbD 8 = (l.getLsbD 0 ^^ l.getLsbD 5) := by
  simp [lfsrStep]

/-- Every other bit moves down one. -/
theorem lfsrStep_low (l : BitVec 9) {n : Nat} (h : n < 8) : (lfsrStep l).getLsbD n = l.getLsbD (n + 1) := by
  simp [lfsrStep, h, Nat.add_comm]

/-- The seed's period divides 511. -/
theorem lfsrSteps_period : lfsrSteps 511 0x1FF = 0x1FF := by decide +kernel

/-- The seed comes back after no fewer than 511 steps: its period divides 511, whose other divisors are 1, 7 and 73. -/
theorem lfsr_minimalPeriod : Function.minimalPeriod lfsrStep 0x1FF = 511 := by
  have divides : Function.minimalPeriod lfsrStep 0x1FF ∣ 511 :=
    Function.IsPeriodicPt.minimalPeriod_dvd ((lfsrSteps_eq_iterate 511 _).symm.trans lfsrSteps_period)
  have divisors : ∀ n ≤ 511, n ∣ 511 → n = 1 ∨ n = 7 ∨ n = 73 ∨ n = 511 := by decide +kernel
  have period := Function.iterate_minimalPeriod (f := lfsrStep) (x := 0x1FF)
  rw [← lfsrSteps_eq_iterate] at period
  rcases divisors _ (Nat.le_of_dvd (by decide) divides) divides with h | h | h | h <;> rw [h] at period ⊢
  all_goals exact absurd period (by decide +kernel)

/-- Settles O31: the bits by the step's two rules, the period by `lfsr_minimalPeriod`. -/
theorem lfsrShiftsInTheFeedbackBit : Obligations.LfsrShiftsInTheFeedbackBit := by
  refine ⟨lfsrStep_top, fun l n => lfsrStep_low l, rfl, lfsrSteps_period, fun n pos small back => ?_⟩
  rw [lfsrSteps_eq_iterate] at back
  have least := Function.IsPeriodicPt.minimalPeriod_le pos back
  rw [lfsr_minimalPeriod] at least
  omega

/-! ### Descrambling -/

/-- Steps of the register add up. -/
theorem lfsrSteps_add (m n : Nat) (l : BitVec 9) : lfsrSteps (m + n) l = lfsrSteps n (lfsrSteps m l) := by
  simp only [lfsrSteps_eq_iterate, Nat.add_comm m n, Function.iterate_add_apply]

/-- Descrambling the first `n` bytes: each is XORed with its whitening byte, the register advances eight steps for
each (43_descrambler.md R135, R136). -/
theorem descrBytes_spec {s : State} (wf : s.msg.wf = true) {n : Nat} (hn : n ≤ 36) :
    ((List.range n).foldl descrByte s).lfsr = lfsrSteps (8 * n) s.lfsr ∧
    ((List.range n).foldl descrByte s).msg.wf = true ∧
    ∀ a, ((List.range n).foldl descrByte s).msg.byteAt a =
      if a < n then s.msg.byteAt a ^^^ whitenByte (lfsrSteps (8 * a) s.lfsr) else s.msg.byteAt a := by
  induction n with
  | zero => exact ⟨rfl, wf, fun a => by simp⟩
  | succ n ih =>
    obtain ⟨register, canonical, bytes⟩ := ih (by omega)
    rw [List.range_succ, List.foldl_append, List.foldl_cons, List.foldl_nil]
    refine ⟨?_, ?_, fun a => ?_⟩
    · rw [descrByte_lfsr, register, ← lfsrSteps_add, Nat.mul_succ]
    · rw [descrByte_msg]
      exact Memory.store_wf canonical (by simp only [msgBytes]; omega) _
    · rw [descrByte_msg, Memory.byteAt_store canonical, bytes, bytes, register]
      by_cases h : a = n
      · subst h; simp
      · rw [if_neg h]
        congr 1
        rw [eq_iff_iff]; omega

/-- A byte of a descrambled buffer. -/
theorem descrMsg_byteAt {s : State} (wf : s.msg.wf = true) (a : Nat) :
    (descrMsg s).msg.byteAt a =
      if a < 36 then s.msg.byteAt a ^^^ whitenByte (lfsrSteps (8 * a) s.lfsr) else s.msg.byteAt a :=
  (descrBytes_spec wf le_rfl).2.2 a

/-- The register after a message. -/
theorem descrMsg_lfsr {s : State} (wf : s.msg.wf = true) : (descrMsg s).lfsr = lfsrSteps 288 s.lfsr :=
  (descrBytes_spec wf le_rfl).1

/-- Byte `a` of the whitening sequence is the register after `8 * a` steps. -/
theorem whitening_getD (n a : Nat) (l : BitVec 9) (h : a < n) : (whitening n l).getD a 0 = whitenByte (lfsrSteps (8 * a) l) := by
  induction n generalizing a l with
  | zero => omega
  | succ n ih =>
    cases a with
    | zero => rfl
    | succ a =>
      rw [whitening, List.getD_cons_succ, ih a _ (by omega), ← lfsrSteps_add, Nat.mul_succ, Nat.add_comm]

/-- The whitening sequence from its start is the table of 43_descrambler.md R137. -/
theorem whitening_eq_table : whitening 36 0x1FF = Claims.whiteningTable := by decide +kernel

/-- Settles O32: each byte by `descrMsg_byteAt`, its whitening byte by the table. -/
theorem descramblingXorsTheWhiteningTable : Obligations.DescramblingXorsTheWhiteningTable := by
  intro s seed wf
  refine ⟨fun a h => ?bytes, ?register, (descrMsg_frame s).1⟩
  case bytes => rw [descrMsg_byteAt wf, if_pos h, ← whitening_eq_table, whitening_getD 36 a _ h, seed]
  case register => rw [descrMsg_lfsr wf, seed]; decide +kernel

/-- Descrambling from one register value twice gives the buffer back: canonical buffers with the same bytes are equal, and
a byte is XORed twice with one value (43_descrambler.md R138). -/
theorem descrMsg_twice {s t : State} (wf : s.msg.wf = true) (msg : t.msg = (descrMsg s).msg) (lfsr : t.lfsr = s.lfsr) :
    (descrMsg t).msg = s.msg := by
  have wf' : t.msg.wf = true := by rw [msg]; exact (descrMsg_frame s).2 wf
  refine Memory.ext_of_bytes ((descrMsg_frame t).2 wf') wf fun a => ?_
  rw [descrMsg_byteAt wf', msg, descrMsg_byteAt wf, lfsr]
  split
  · rw [BitVec.xor_assoc, BitVec.xor_self, BitVec.xor_zero]
  · rfl

/-- Settles O33, by `descrMsg_twice`. -/
theorem descramblingTwiceIsIdentity : Obligations.DescramblingTwiceIsIdentity := by
  intro s seed wf
  refine descrMsg_twice wf ?msg ?register
  case msg => dsimp only
  case register => exact seed.symm

/-! ### The CRC -/

/-- The polynomial's bits. -/
theorem crcPoly_bits : ∀ n : Nat, n < 16 → crcPoly.getLsbD n = (n == 0 || n == 2 || n == 15) := by decide

/-- Settles O34: a shift, and the polynomial when the two bits differ. -/
theorem crcBitDividesByThePolynomial : Obligations.CrcBitDividesByThePolynomial := by
  intro c b n h
  have shifted : (c <<< 1).getLsbD n = (decide (0 < n) && c.getLsbD (n - 1)) := by
    rw [BitVec.getLsbD_shiftLeft]
    cases n with
    | zero => simp
    | succ n => simp [h, Nat.lt_of_succ_lt h]
  rw [crcBit]
  cases c.getLsbD 15 ^^ b
  · simp [shifted]
  · simp [shifted, crcPoly_bits n h]

/-- Settles O35: the bytes are the buffer's first thirty-two, each bit by bit; three closed answers. -/
theorem crcCoversBytesZeroToThirtyOne : Obligations.CrcCoversBytesZeroToThirtyOne := by
  refine ⟨fun s => ?_, by decide +kernel, by decide +kernel, by decide +kernel⟩
  rw [crcMsg, crcBytes, Memory.bytesFrom, List.foldl_map]
  simp only [Nat.zero_add]
  rfl

end Sys2Proof.Machine
end

section
/-! PROOFS. The meaning of the input events, said once: an equation for each, and the next states that an instruction can
answer (46_channel_decoder.md). -/

namespace Sys2Proof.Machine

/-! ### The step and the event word -/

/-- Settles O1: the two branches of the fetch. -/
theorem stepRunsTheDeliveredEvent : Obligations.StepRunsTheDeliveredEvent := by
  refine ⟨fun s e rest delivered => ?_, fun s empty => ?_⟩
  · rw [step, fetch, delivered]; rfl
  · rw [step, fetch, empty]

/-- Settles O2: the two flags of the word choose the event. -/
theorem eventWordsResyncThenFeed : Obligations.EventWordsResyncThenFeed := by
  intro w s
  rw [decode, decodeEvent, eventResync, eventValid]
  cases w.getLsbD 2 <;> cases w.getLsbD 1 <;> rfl

/-- Settles O6: the emission of `NONE` is all that IDLE does. -/
theorem idleChangesNothing : Obligations.IdleChangesNothing := fun _ _ => rfl

/-- Settles O7: neither IDLE nor RESYNC reads its bit. -/
theorem undeliveredBitIsIgnored : Obligations.UndeliveredBitIsIgnored := by
  intro b c s
  have spelling := fun r d => decodeEvent_eventWord r 0 d
  simp only [decode, spelling]
  exact ⟨rfl, rfl⟩

/-! ### A bit fed while hunting, and RESYNC -/

/-- The match after a shift, while hunting: the flag is the comparison (40_bitsync.md R103). -/
theorem syncMatch_syncShift {b : Bit} {s : State} (hunting : s.sync = false) :
    syncMatch (syncShift b s) = { s with
      reg := (s.reg <<< 1) ||| b.setWidth 16
      sync := decide ((s.reg <<< 1) ||| b.setWidth 16 = syncWord) } := by
  rw [syncMatch, syncMatches, syncShift_reg]
  cases decide ((s.reg <<< 1) ||| b.setWidth 16 = syncWord)
  · simp [syncShift, hunting]
  · rfl

/-- FEED while hunting. -/
theorem exec_feed_hunting {b : Bit} {s : State} (hunting : s.sync = false) :
    exec (.feed b) s = .next { s with
      reg := (s.reg <<< 1) ||| b.setWidth 16
      sync := decide ((s.reg <<< 1) ||| b.setWidth 16 = syncWord)
      out := .none } := by
  have shifted := syncMatch_syncShift (b := b) (s := emit .none s) hunting
  have branch : exec (.feed b) s = .next (syncMatch (syncShift b (emit .none s))) :=
    if_neg (by simp [hunting])
  rw [branch, shifted]; rfl

/-- Settles O8, by the equation for FEED while hunting. -/
theorem huntingFeedShiftsAndMatches : Obligations.HuntingFeedShiftsAndMatches := fun _ _ => exec_feed_hunting

/-- Settles O12: the resynchronize writes every decode field and one counter. -/
theorem resyncAbandonsInAnyState : Obligations.ResyncAbandonsInAnyState := fun _ _ => rfl

/-- A single bit in a cleared register is no sync word. -/
theorem setWidth_ne_syncWord (b : Bit) : (0 : BitVec 16) <<< 1 ||| b.setWidth 16 ≠ syncWord := by
  revert b; decide

/-- RESYNC_FEED: the bit enters the register that the resynchronize has cleared. -/
theorem exec_resyncFeed (b : Bit) (s : State) :
    exec (.resyncFeed b) s = .next { doResync (emit .none s) with reg := b.setWidth 16 } := by
  have branch : exec (.resyncFeed b) s = .next (syncMatch (syncShift b (doResync (emit .none s)))) := rfl
  rw [branch, syncMatch_syncShift rfl, doResync_reg, decide_eq_false (setWidth_ne_syncWord b)]
  simp [doResync, resetDecodeState]

/-- Settles O13, by the equation for RESYNC_FEED. -/
theorem resyncFeedHuntsFromTheBit : Obligations.ResyncFeedHuntsFromTheBit := exec_resyncFeed

/-- Settles O14: after a RESYNC nothing is left to reset or to count. -/
theorem secondResyncChangesNothing : Obligations.SecondResyncChangesNothing := by
  intro b c s t first
  obtain rfl : doResync (emit .none s) = t := Host.Outcome.next.inj first
  rfl

/-! ### A bit fed while locked -/

/-- A group is full with the next bit just when it holds 31. -/
theorem groupFull_shiftGroup (b : Bit) (s : State) : groupFull (shiftGroup b s) = true ↔ s.grpfill = 31 := by
  rw [groupFull, decide_eq_true_iff, shiftGroup_grpfill, groupBits]
  constructor <;> intro h <;> bv_omega

/-- FEED while locked, the group not full. -/
theorem exec_feed_filling {b : Bit} {s : State} (locked : s.sync = true) (room : s.grpfill ≠ 31) :
    exec (.feed b) s = .next { s with
      grp := (s.grp <<< 1) ||| b.setWidth 32
      grpfill := s.grpfill + 1
      out := .none } := by
  have enters : exec (.feed b) s = groupAccum b (emit .none s) := if_pos locked
  rw [enters, groupAccum, if_neg (room ∘ (groupFull_shiftGroup b (emit .none s)).mp)]
  rfl

/-- Settles O9, by the equation for FEED while a group fills. -/
theorem lockedFeedFillsTheGroup : Obligations.LockedFeedFillsTheGroup := fun _ _ => exec_feed_filling

/-- What a checked message is reported as (46_channel_decoder.md R178, 44_crc.md R143). -/
def messageReport (d : State) : OutEvent :=
  if d.forwardInvalid || crcValid d then .record (recordOf (kindOf (typeOf d.msg)) (typeOf d.msg) d)
  else .crcFail d.crc d.rxcrc

/-- The state that a message's completion leaves: counted, reported, reset. -/
def completed (u : State) : State :=
  resetDecodeState (emit (messageReport (checkMessage u)) (countMessage (crcValid (checkMessage u)) u))

/-- The report is emitted, and nothing else changes. -/
theorem reportMessage_eq (s : State) : reportMessage s = .next (emit (messageReport s) s) := by
  rw [reportMessage, messageReport]
  split
  · exact dispatch_eq s
  · rfl

/-- A report does not show the counters. -/
@[simp] theorem messageReport_countMessage (v : Bool) (d : State) : messageReport (countMessage v d) = messageReport d := rfl

/-- A report does not show the group buffer. -/
@[simp] theorem messageReport_closeGroup (d : State) : messageReport (closeGroup d) = messageReport d := rfl

/-- The verdict does not show the group buffer. -/
@[simp] theorem crcValid_closeGroup (d : State) : crcValid (closeGroup d) = crcValid d := rfl

/-- The check of a message reads and writes the message, the whitening register and the two CRC registers alone, so it
commutes with any change of other fields. -/
theorem checkMessage_comm (g : State → State) (descr : ∀ s i, descrByte (g s) i = g (descrByte s i))
    (crc : ∀ s, crcMsg (g s) = g (crcMsg s)) (rx : ∀ s, crcRx (g s) = g (crcRx s)) (s : State) :
    checkMessage (g s) = g (checkMessage s) := by
  rw [checkMessage, descrMsg, List.foldl_hom g (fun s i => descr s i), crc, rx]; rfl

/-- MSG.COMPLETE: what the check has written is reset again, its report and its verdict stay. -/
theorem completeMessage_eq (s : State) : completeMessage s = .next (completed s) := by
  simp only [completeMessage, reportMessage_eq, andThen_next, messageReport_countMessage, completed]
  have frame := checkMessage_frame s
  generalize messageReport (checkMessage s) = report
  generalize crcValid (checkMessage s) = verdict
  generalize checkMessage s = d at frame ⊢
  rw [frame]; rfl

/-- The group's close does not show in a completed message. -/
theorem completed_closeGroup (u : State) : completed (closeGroup u) = completed u := by
  have checked := checkMessage_comm closeGroup (fun _ _ => rfl) (fun _ => rfl) (fun _ => rfl) u
  rw [completed, checked, messageReport_closeGroup, crcValid_closeGroup]; rfl

/-- The message is complete with the group that follows seventeen. -/
theorem messageComplete_closeGroup (u : State) : messageComplete (closeGroup u) = true ↔ u.ngrp = 17 := by
  rw [messageComplete, decide_eq_true_iff, closeGroup_ngrp, groupsPerMsg]
  constructor <;> intro h <;> bv_omega

/-- FEED of a group's last bit: the trellis steps, and then the group's close or the message's completion. -/
theorem exec_feed_full {b : Bit} {s : State} (locked : s.sync = true) (full : s.grpfill = 31) :
    exec (.feed b) s =
      andThen (vitSteps (symbolsOf (deinterleave ((s.grp <<< 1) ||| b.setWidth 32))) (shiftGroup b (emit .none s)))
        fun u => .next (if u.ngrp = 17 then completed u else closeGroup u) := by
  have enters : exec (.feed b) s = groupAccum b (emit .none s) := if_pos locked
  rw [enters, groupAccum, if_pos ((groupFull_shiftGroup b (emit .none s)).mpr full), groupProcess]
  congr 1
  funext u
  simp only [messageComplete_closeGroup, completeMessage_eq, completed_closeGroup]
  split <;> rfl

/-! ### The next states of an instruction -/

/-- What an instruction that answers a next state has done. -/
inductive Effect (s : State) : Instr → State → Prop
  /-- IDLE. -/
  | idle (b : Bit) : Effect s (.idle b) (emit .none s)
  /-- RESYNC. -/
  | resync (b : Bit) : Effect s (.resync b) (doResync (emit .none s))
  /-- RESYNC_FEED. -/
  | resyncFeed (b : Bit) : Effect s (.resyncFeed b) { doResync (emit .none s) with reg := b.setWidth 16 }
  /-- A bit fed while hunting. -/
  | hunt (b : Bit) (hunting : s.sync = false) : Effect s (.feed b) { s with
      reg := (s.reg <<< 1) ||| b.setWidth 16
      sync := decide ((s.reg <<< 1) ||| b.setWidth 16 = syncWord)
      out := .none }
  /-- A bit that leaves the group unfilled. -/
  | fill (b : Bit) (locked : s.sync = true) (room : s.grpfill ≠ 31) : Effect s (.feed b) { s with
      grp := (s.grp <<< 1) ||| b.setWidth 32
      grpfill := s.grpfill + 1
      out := .none }
  /-- The last bit of a group before the eighteenth. -/
  | closed (b : Bit) (u : State) (locked : s.sync = true) (full : s.grpfill = 31) (early : s.ngrp ≠ 17)
      (steps : vitSteps (symbolsOf (deinterleave ((s.grp <<< 1) ||| b.setWidth 32))) (shiftGroup b (emit .none s)) = .next u) :
      Effect s (.feed b) (closeGroup u)
  /-- The last bit of a message. -/
  | completed (b : Bit) (u : State) (locked : s.sync = true) (full : s.grpfill = 31) (last : s.ngrp = 17)
      (steps : vitSteps (symbolsOf (deinterleave ((s.grp <<< 1) ||| b.setWidth 32))) (shiftGroup b (emit .none s)) = .next u) :
      Effect s (.feed b) (completed u)
  /-- A type code. -/
  | record (i : Instr) (k : Kind) (t : TypeCode) (message : i.isEvent = false) :
      Effect s i (emit (.record (recordOf k t s)) s)

/-- Trellis steps leave the group count. -/
theorem TrellisOnly.ngrp {s t : State} (h : TrellisOnly s t) : t.ngrp = s.ngrp := by rw [h.rest]

/-- Every next state of an instruction is one of its effects. -/
theorem exec_effect {i : Instr} {s t : State} (h : exec i s = .next t) : Effect s i t := by
  cases i
  case idle b => cases h; exact .idle b
  case resync b => cases h; exact .resync b
  case resyncFeed b => rw [exec_resyncFeed] at h; cases h; exact .resyncFeed b
  case feed b =>
    cases mode : s.sync
    case false => rw [exec_feed_hunting mode] at h; cases h; exact .hunt b mode
    case true =>
      by_cases full : s.grpfill = 31
      · rw [exec_feed_full mode full] at h
        obtain ⟨u, steps, closing⟩ := andThen_eq_next.mp h
        have groups : u.ngrp = s.ngrp := (vitSteps_trellis steps).ngrp
        cases closing
        rw [groups]
        split
        · next last => exact .completed b u mode full last steps
        · next early => exact .closed b u mode full early steps
      · rw [exec_feed_filling mode full] at h; cases h; exact .fill b mode full
  all_goals cases h; exact .record _ _ _ rfl

end Sys2Proof.Machine
end

section
/-! PROOFS. Rules of every instruction, each read off its effects: the buffer's form, the configuration, the counters and
the outputs, the reset (10_state.md sections 7 and 9, 46_channel_decoder.md section 4). -/

namespace Sys2Proof.Machine

/-! ### What trellis steps leave -/

/-- The trellis steps of a group, seen from the event's state: the bit has entered the group buffer, the output is `NONE`. -/
theorem groupSteps_trellis {b : Bit} {s u : State} {rs : List Symbol}
    (steps : vitSteps rs (shiftGroup b (emit .none s)) = .next u) :
    u = { s with
      grp := (s.grp <<< 1) ||| b.setWidth 32
      grpfill := s.grpfill + 1
      cost := u.cost
      bits := u.bits
      p := u.p
      nbits := u.nbits
      msg := u.msg
      nout := u.nout
      out := .none } :=
  (vitSteps_trellis steps).rest

/-! ### What a completed message leaves -/

@[simp] theorem completed_out (u : State) : (completed u).out = messageReport (checkMessage u) := rfl
@[simp] theorem completed_cntAttempt (u : State) : (completed u).cntAttempt = u.cntAttempt + 1 := rfl
@[simp] theorem completed_cntPass (u : State) :
    (completed u).cntPass = if crcValid (checkMessage u) then u.cntPass + 1 else u.cntPass := rfl
@[simp] theorem completed_cntAbandon (u : State) : (completed u).cntAbandon = u.cntAbandon := rfl

/-! ### The message buffer -/

/-- Settles O40: the buffer stands, is emptied, or is written by trellis steps. -/
theorem everyInstructionKeepsTheBufferCanonical : Obligations.EveryInstructionKeepsTheBufferCanonical := by
  intro i s t wf h
  cases exec_effect h with
  | idle | hunt | fill | record => exact wf
  | resync | resyncFeed | completed => exact Memory.nil_wf
  | closed b u _ _ _ steps => exact (vitSteps_trellis steps).wf wf

/-! ### Construction and reset -/

/-- Settles O41: the banks state by state, the other fields by construction. -/
theorem powerOnGivesEveryFieldItsValue : Obligations.PowerOnGivesEveryFieldItsValue := by
  intro f forward e
  refine ⟨rfl, rfl, rfl, rfl, rfl, rfl, rfl, rfl, rfl, rfl, rfl, ?metrics, ?banks, fun _ => rfl, rfl, rfl, rfl, rfl, rfl,
    rfl, rfl, rfl, rfl⟩
  case metrics =>
    have metrics : ∀ q : TrellisState, startMetrics.get q = if q = 0 then 0 else 255 := by decide
    exact metrics
  case banks => exact fun q => ⟨PerState.get_all 0 q, PerState.get_all 0 q, PerState.get_all 0 q⟩

/-- The reset decode state hunts afresh. -/
theorem resetDecodeState_isHuntingAfresh (s : State) : (resetDecodeState s).IsHuntingAfresh :=
  ⟨rfl, rfl, rfl, rfl, rfl, rfl, rfl, rfl, rfl, rfl, rfl, rfl, rfl, rfl⟩

/-- Settles O42: the three causes reset; a FEED that reports has completed a message. -/
theorem threeCausesLeaveOneDecodeState : Obligations.ThreeCausesLeaveOneDecodeState := by
  refine ⟨fun f forward e => resetDecodeState_isHuntingAfresh (State.powerOn f forward e), fun b s t h => ?_,
    fun b s t h reports => ?_⟩
  · obtain rfl : doResync (emit .none s) = t := Host.Outcome.next.inj h
    exact resetDecodeState_isHuntingAfresh _
  · cases exec_effect h with
    | hunt | fill => exact absurd rfl reports
    | closed b u _ _ _ steps => exact absurd (by rw [groupSteps_trellis steps]; rfl) reports
    | completed => exact resetDecodeState_isHuntingAfresh _
    | record _ _ _ message => exact nomatch message

/-! ### Outputs, counters, configuration -/

/-- Settles O46: every other effect of an event leaves the output `NONE`. -/
theorem onlyTheLastBitReports : Obligations.OnlyTheLastBitReports := by
  intro i s t event h reports
  cases exec_effect h with
  | idle | resync | resyncFeed | hunt | fill => exact absurd rfl reports
  | closed b u _ _ _ steps => exact absurd (by rw [groupSteps_trellis steps]; rfl) reports
  | completed b u locked full last => exact ⟨⟨b, rfl⟩, locked, full, last⟩
  | record _ _ _ message => exact absurd (event.symm.trans message) (by decide)

/-- What a message's check leaves: the policy. -/
@[simp] theorem checkMessage_forwardInvalid (s : State) : (checkMessage s).forwardInvalid = s.forwardInvalid := by
  rw [checkMessage_frame]

/-- A checked message is reported: as a record that carries the verdict, never an invalid one under the discarding policy; or
as a CRC failure, under that policy and for an invalid message. -/
theorem messageReport_cases (d : State) :
    (∃ r : Record, messageReport d = .record r ∧ r.valid = crcValid d ∧ (d.forwardInvalid = false → crcValid d = true)) ∨
    (messageReport d = .crcFail d.crc d.rxcrc ∧ d.forwardInvalid = false ∧ crcValid d = false) := by
  rw [messageReport]
  cases valid : crcValid d <;> cases policy : d.forwardInvalid
  case false.false => exact .inr ⟨rfl, rfl, rfl⟩
  all_goals exact .inl ⟨_, rfl, valid, by simp⟩

/-- Settles O47: no effect but a completed message reports or counts a message, and that one by its verdict and policy. -/
theorem countersFollowTheOutputs : Obligations.CountersFollowTheOutputs := by
  intro i s t event h
  have noRecord : s.forwardInvalid = false → ∀ r : Record, OutEvent.none = .record r → r.valid = true := by simp
  have noFailure : s.forwardInvalid = true → ∀ x y : BitVec 16, OutEvent.none ≠ .crcFail x y := by simp
  cases exec_effect h with
  | idle | resync | resyncFeed | hunt | fill => exact ⟨rfl, rfl, rfl, noRecord, noFailure⟩
  | closed b u _ _ _ steps =>
    rw [groupSteps_trellis steps]
    exact ⟨rfl, rfl, rfl, noRecord, noFailure⟩
  | completed b u _ _ _ steps =>
    have frame := groupSteps_trellis steps
    have attempt : u.cntAttempt = s.cntAttempt := by rw [frame]
    have pass : u.cntPass = s.cntPass := by rw [frame]
    have abandon : u.cntAbandon = s.cntAbandon := by rw [frame]
    have policy : (checkMessage u).forwardInvalid = s.forwardInvalid := by rw [checkMessage_forwardInvalid, frame]
    simp only [completed_cntAttempt, completed_cntPass, completed_cntAbandon, completed_out, attempt, pass, abandon]
    rcases messageReport_cases (checkMessage u) with ⟨r, report, verdict, discarding⟩ | ⟨report, discards, invalid⟩
    · simp only [report]
      refine ⟨rfl, by simp [verdict], trivial, fun discards r' same => ?_, by simp⟩
      obtain rfl := OutEvent.record.inj same
      rw [verdict, discarding (policy.trans discards)]
    · simp only [report, invalid, ← policy, discards]
      exact ⟨rfl, rfl, trivial, by simp, by simp⟩
  | record _ _ _ message => exact absurd (event.symm.trans message) (by decide)

/-- The fetch writes the host's two fields alone. -/
theorem fetch_frame (s : State) : (fetch s).2 = { s with inputs := (fetch s).2.inputs, ts := (fetch s).2.ts } := by
  rw [fetch]
  split <;> rfl

/-- No instruction writes the configuration or the host's fields. -/
theorem exec_configuration {i : Instr} {s t : State} (h : exec i s = .next t) :
    t.freq = s.freq ∧ t.forwardInvalid = s.forwardInvalid ∧ t.enc = s.enc ∧ t.inputs = s.inputs ∧ t.ts = s.ts := by
  cases exec_effect h with
  | idle | resync | resyncFeed | hunt | fill | record => exact ⟨rfl, rfl, rfl, rfl, rfl⟩
  | closed b u _ _ _ steps | completed b u _ _ _ steps =>
    rw [groupSteps_trellis steps]
    exact ⟨rfl, rfl, rfl, rfl, rfl⟩

/-- Settles O48: the instruction by `exec_configuration`, the fetch before it by `fetch_frame`. -/
theorem configurationNeverChanges : Obligations.ConfigurationNeverChanges := by
  refine ⟨fun i s t => exec_configuration, fun s t h => ?_⟩
  obtain ⟨freq, policy, enc, -⟩ := exec_configuration h
  rw [freq, policy, enc, fetch_frame]
  exact ⟨rfl, rfl, rfl⟩

end Sys2Proof.Machine
end

section
/-! PROOFS. The states between input events: their invariants hold after every event, which always answers
(10_state.md section 4, 46_channel_decoder.md sections 3 and 6). -/

namespace Sys2Proof.Machine

/-! ### The bytes of a canonical buffer -/

/-- A listed cell is read at its address, and is no unlisted byte. -/
theorem Memory.byteAt_of_mem : ∀ {lo : Nat} {m : Memory}, Memory.wfFrom lo m = true → ∀ c ∈ m,
    m.byteAt c.1 = c.2 ∧ c.2 ≠ unlistedByte ∧ lo ≤ c.1
  | _, [], _, c, hc => nomatch hc
  | lo, (a, x) :: rest, wf, c, hc => by
    simp only [Memory.wfFrom, Bool.and_eq_true, decide_eq_true_eq] at wf
    obtain ⟨⟨⟨low, -⟩, listed⟩, wf'⟩ := wf
    rcases List.mem_cons.mp hc with rfl | hc
    · exact ⟨Memory.byteAt_head .., listed, low⟩
    · obtain ⟨read, listed', above⟩ := Memory.byteAt_of_mem wf' c hc
      exact ⟨by rw [Memory.byteAt, if_neg (by omega), read], listed', by omega⟩

/-- An address that no cell lists reads as unlisted. -/
theorem Memory.byteAt_unlisted {a : Nat} : ∀ {m : Memory}, (∀ c ∈ m, c.1 ≠ a) → m.byteAt a = unlistedByte
  | [], _ => rfl
  | (b, x) :: rest, h => by
    rw [Memory.byteAt, if_neg (h _ (List.mem_cons_self ..))]
    exact Memory.byteAt_unlisted fun c hc => h c (List.mem_cons_of_mem _ hc)

/-- The cells of a canonical buffer lie below `n` just when every byte from `n` on is unlisted (20_memory.md R69). -/
theorem Memory.cells_below_iff {m : Memory} (wf : m.wf = true) (n : Nat) :
    (∀ c ∈ m, c.1 < n) ↔ ∀ a, n ≤ a → m.byteAt a = unlistedByte := by
  constructor
  · exact fun below a ha => Memory.byteAt_unlisted fun c hc => by have := below c hc; omega
  · intro unlisted c hc
    obtain ⟨read, listed, -⟩ := Memory.byteAt_of_mem wf c hc
    exact Nat.lt_of_not_le fun ha => listed (read.symm.trans (unlisted _ ha))

/-! ### What is settled -/

/-- The reset decode state is settled. -/
theorem resetDecodeState_settled (s : State) : (resetDecodeState s).Settled := by
  have hunting : (resetDecodeState s).sync = false := rfl
  refine ⟨fun _ => ⟨rfl, rfl, rfl, rfl, rfl, rfl, rfl, rfl, rfl, rfl, rfl, rfl⟩,
    fun locked => absurd (hunting.symm.trans locked) (by decide), ⟨Nat.zero_le _, Nat.zero_le _, rfl⟩, rfl,
    ⟨rfl, rfl, rfl⟩, rfl, Nat.one_pos, rfl, fun c hc => ?_⟩
  exact absurd hc List.not_mem_nil

/-- Settles O43: construction leaves the reset decode state. -/
theorem powerOnIsSettled : Obligations.PowerOnIsSettled :=
  ⟨fun f forward e => resetDecodeState_settled (State.powerOn f forward e), resetDecodeState_settled State.reset⟩

/-- While hunting the sync register is free. -/
theorem State.Settled.register {s : State} (h : s.Settled) (hunting : s.sync = false) (r : BitVec 16) :
    ({ s with reg := r } : State).Settled := by
  obtain ⟨cleared, -, rest⟩ := h
  exact ⟨cleared, fun locked => absurd (hunting.symm.trans locked) (by decide), rest⟩

/-- A shift of the sync register while hunting, locked or not by its match. -/
theorem State.Settled.hunt {s : State} (h : s.Settled) (hunting : s.sync = false) (r : BitVec 16) :
    ({ s with reg := r, sync := decide (r = syncWord), out := .none } : State).Settled := by
  obtain ⟨cleared, -, rest⟩ := h
  exact ⟨fun _ => cleared hunting, of_decide_eq_true, rest⟩

/-- One more bit in a group buffer. -/
theorem shiftIn_lt {g : Group} {n : Nat} (h : g.toNat < 2 ^ n) (b : Bit) :
    ((g <<< 1) ||| b.setWidth 32).toNat < 2 ^ (n + 1) := by
  have shifted : (g <<< 1).toNat ≤ 2 * g.toNat := by bv_omega
  have bit : (b.setWidth 32).toNat ≤ 1 := by bv_omega
  have room : 2 ≤ 2 ^ (n + 1) := Nat.le_self_pow (Nat.succ_ne_zero n) 2
  rw [BitVec.toNat_or]
  exact Nat.or_lt_two_pow (by omega) (by omega)

/-- A bit that leaves the group unfilled. -/
theorem State.Settled.fill {s : State} (h : s.Settled) (locked : s.sync = true) (room : s.grpfill ≠ 31) (b : Bit) :
    ({ s with grp := (s.grp <<< 1) ||| b.setWidth 32, grpfill := s.grpfill + 1, out := .none } : State).Settled := by
  obtain ⟨-, word, ⟨fill, groups, steps⟩, count, registers, index, bits, buffer⟩ := h
  have counted : (s.grpfill + 1).toNat = s.grpfill.toNat + 1 := by bv_omega
  refine ⟨fun hunting => ?_, word, ⟨?_, groups, steps⟩, count, registers, index, ?_, buffer⟩
  · exact absurd (locked.symm.trans hunting) (by decide)
  · show (s.grpfill + 1).toNat ≤ 31
    bv_omega
  · show ((s.grp <<< 1) ||| b.setWidth 32).toNat < 2 ^ (s.grpfill + 1).toNat
    rw [counted]
    exact shiftIn_lt bits b

/-- The sixteen trellis steps of a group that a settled locked state completes. -/
theorem groupSteps_next {s : State} (h : s.Settled) (b : Bit) (w : Group) :
    ∃ u, vitSteps (symbolsOf w) (shiftGroup b (emit .none s)) = .next u ∧
      OnSchedule u ∧ Appended s u ∧ u.nbits.toNat = 16 * (s.ngrp.toNat + 1) ∧ u.p = 0 := by
  have schedule : OnSchedule (shiftGroup b (emit .none s)) := ⟨h.onSchedule.count, h.onSchedule.steps, h.onSchedule.wf⟩
  obtain ⟨-, -, ⟨-, groups, steps⟩, -, -, index, -⟩ := h
  obtain ⟨u, run, schedule', appended, counted, index'⟩ := vitSteps_onSchedule (rs := symbolsOf w) schedule
    (by rw [symbolsOf_length, shiftGroup_nbits, emit_nbits, steps]; omega)
  rw [symbolsOf_length, shiftGroup_nbits, emit_nbits, steps] at counted
  refine ⟨u, run, schedule', ⟨appended.le, appended.below, appended.above⟩, by omega, ?_⟩
  rw [index', symbolsOf_length, shiftGroup_p, emit_p, index]
  rfl

/-- The last bit of a group before the eighteenth: the count of groups and steps moves on together, the bytes by the
emission schedule. -/
theorem State.Settled.closed {s u : State} (h : s.Settled) (locked : s.sync = true) (early : s.ngrp ≠ 17) {b : Bit} {w : Group}
    (run : vitSteps (symbolsOf w) (shiftGroup b (emit .none s)) = .next u) : (closeGroup u).Settled := by
  obtain ⟨u', run', schedule, appended, steps, index⟩ := groupSteps_next h b w
  obtain rfl : u' = u := Host.Outcome.next.inj (run'.symm.trans run)
  have frame := groupSteps_trellis run
  obtain ⟨-, word, ⟨-, groups, -⟩, -, registers, -, -, wf, below⟩ := h
  have sync : u'.sync = true := by rw [frame]; exact locked
  have group : u'.ngrp = s.ngrp := by rw [frame]
  have counted : (u'.ngrp + 1).toNat = s.ngrp.toNat + 1 := by rw [group]; bv_omega
  have next : s.ngrp.toNat + 1 ≤ 17 := by bv_omega
  refine ⟨fun hunting => absurd (sync.symm.trans hunting) (by decide), fun _ => ?word, ⟨Nat.zero_le _, ?groups, ?steps⟩,
    ?bytes, ?registers, index, Nat.one_pos, schedule.wf, ?cells⟩
  case word => rw [closeGroup_reg, frame]; exact word locked
  case groups => rw [closeGroup_ngrp, counted]; exact next
  case steps => rw [closeGroup_nbits, closeGroup_ngrp, steps, counted]
  case bytes =>
    rw [closeGroup_nout, closeGroup_ngrp, schedule.count, steps, counted, bytesAfterSteps_group next]
  case registers =>
    rw [closeGroup_lfsr, closeGroup_crc, closeGroup_rxcrc, frame]; exact registers
  case cells =>
    refine (Memory.cells_below_iff schedule.wf _).mpr fun a ha => ?_
    rw [appended.above a ha]
    exact (Memory.cells_below_iff wf _).mp below a (appended.le.trans ha)

/-- Every effect of an instruction keeps the invariants. -/
theorem Effect.settled {i : Instr} {s t : State} (h : Effect s i t) (settled : s.Settled) : t.Settled := by
  cases h with
  | idle | record => exact settled
  | resync | completed => exact resetDecodeState_settled _
  | resyncFeed b => exact (resetDecodeState_settled (countAbandon (emit .none s))).register rfl (b.setWidth 16)
  | hunt b hunting => exact settled.hunt hunting _
  | fill b locked room => exact settled.fill locked room b
  | closed b u locked _ early steps => exact settled.closed locked early steps

/-- The fetch keeps the invariants. -/
theorem fetch_settled {s : State} (h : s.Settled) : (fetch s).2.Settled := by
  rw [fetch_frame]
  exact h

/-- Settles O44: the fetch and then an effect. -/
theorem everyStepKeepsTheStateSettled : Obligations.EveryStepKeepsTheStateSettled :=
  fun _ _ settled h => (exec_effect h).settled (fetch_settled settled)

/-! ### Totality -/

/-- Between events every instruction answers. -/
theorem exec_total (i : Instr) {s : State} (h : s.Settled) : ∃ t, exec i s = .next t := by
  cases i
  case feed b =>
    cases mode : s.sync
    case false => exact ⟨_, exec_feed_hunting mode⟩
    case true =>
      by_cases full : s.grpfill = 31
      · obtain ⟨u, run, -⟩ := groupSteps_next h b (deinterleave ((s.grp <<< 1) ||| b.setWidth 32))
        exact ⟨_, by rw [exec_feed_full mode full, run, andThen_next]⟩
      · exact ⟨_, exec_feed_filling mode full⟩
  case resyncFeed b => exact ⟨_, exec_resyncFeed b s⟩
  all_goals exact ⟨_, rfl⟩

/-- Between events a step answers, and its next state is settled again. -/
theorem step_total {s : State} (h : s.Settled) : ∃ t, step s = .next t ∧ t.Settled := by
  obtain ⟨t, run⟩ := exec_total (fetch s).1 (fetch_settled h)
  exact ⟨t, run, everyStepKeepsTheStateSettled s t h run⟩

/-- Settles O45, by totality of the instruction and of the step. -/
theorem nothingIsRefusedBetweenEvents : Obligations.NothingIsRefusedBetweenEvents :=
  ⟨fun i _ h => exec_total i h, fun _ h => step_total h⟩

/-! ### The last bit of a group and of a message -/

/-- A group's close after its trellis steps, seen from the event's state. -/
theorem closeGroup_eq {b : Bit} {s u : State} {rs : List Symbol}
    (steps : vitSteps rs (shiftGroup b (emit .none s)) = .next u) :
    closeGroup u = { s with
      grp := 0
      grpfill := 0
      ngrp := s.ngrp + 1
      cost := u.cost
      bits := u.bits
      p := u.p
      nbits := u.nbits
      nout := u.nout
      msg := u.msg
      out := .none } :=
  congrArg closeGroup (groupSteps_trellis steps)

/-- Settles O10: the trellis steps run, and the group closes on the state they leave. -/
theorem groupEndRunsSixteenSteps : Obligations.GroupEndRunsSixteenSteps := by
  intro b s settled locked full early
  obtain ⟨u, run, schedule, appended, steps, index⟩ :=
    groupSteps_next settled b (deinterleave ((s.grp <<< 1) ||| b.setWidth 32))
  obtain ⟨-, -, ⟨-, groups, counted⟩, -, -, current, -⟩ := settled
  have group : u.ngrp = s.ngrp := by rw [groupSteps_trellis run]
  have more : u.ngrp ≠ 17 := fun last => by
    rw [← group, last] at early
    exact absurd early (by decide)
  have total : u.nbits = s.nbits + 16 := by bv_omega
  refine ⟨u, run, ?state, ?count, fun a outside => outside.elim (appended.below a) (appended.above a)⟩
  case state =>
    rw [exec_feed_full locked full, run, andThen_next, if_neg more, closeGroup_eq run, index.trans current.symm, total]
  case count => rw [schedule.count, steps, bytesAfterSteps_group (by omega)]

/-- A report, its record spelled out. -/
theorem messageReport_eq (d : State) : messageReport d =
    if d.crc = d.rxcrc ∨ d.forwardInvalid = true then .record (Claims.recordIn (kindOf (d.msg.byteAt 4)) (d.msg.byteAt 4) d)
    else .crcFail d.crc d.rxcrc := by
  simp only [messageReport, recordOf_eq_recordIn, Bool.or_eq_true, crcValid_iff, or_comm (b := d.crc = d.rxcrc)]
  rfl

/-- A completed message leaves a constructed decoder with its report, its counters and its host. -/
theorem completed_eq (u : State) :
    completed u = { State.powerOn u.freq u.forwardInvalid u.enc with
      cntAttempt := u.cntAttempt + 1
      cntPass := if crcValid (checkMessage u) then u.cntPass + 1 else u.cntPass
      cntAbandon := u.cntAbandon
      ts := u.ts
      inputs := u.inputs
      out := messageReport (checkMessage u) } := rfl

/-- Settles O11: the eighteenth group's trellis steps bring the counts to 288 and 36, and the message is completed on the
state they leave. -/
theorem lastBitCompletesTheMessage : Obligations.LastBitCompletesTheMessage := by
  intro b s settled locked full last
  obtain ⟨u, run, schedule, -, steps, -⟩ :=
    groupSteps_next settled b (deinterleave ((s.grp <<< 1) ||| b.setWidth 32))
  have frame := groupSteps_trellis run
  have group : u.ngrp = 17 := by rw [frame]; exact last
  have total : u.nbits = 288 := by rw [last] at steps; exact BitVec.eq_of_toNat_eq steps
  have count : u.nout = 36 := by
    have bytes := schedule.count
    rw [total] at bytes
    exact BitVec.eq_of_toNat_eq bytes
  have policy : (checkMessage u).forwardInvalid = s.forwardInvalid := by rw [checkMessage_forwardInvalid, frame]
  refine ⟨u, run, total, count, ?_⟩
  rw [exec_feed_full locked full, run, andThen_next, if_pos group, completed_eq, messageReport_eq, policy]
  simp only [crcValid_iff]
  generalize checkMessage u = d
  rw [frame]

end Sys2Proof.Machine
end

section
/-! PROOFS. Noninterference: what the place in the sequence depends on, and that the non-current Viterbi buffer is invisible
(10_state.md R49, R51). Both are relations between two states that every operation keeps. -/

namespace Sys2Proof.Machine

/-! ### Outcomes alike up to a relation -/

/-- Sequencing keeps outcomes alike. -/
theorem alikeUpTo_andThen {R R' : State → State → Prop} {r r' : Run} {f f' : State → Run}
    (first : Claims.AlikeUpTo R r r') (second : ∀ s t, R s t → Claims.AlikeUpTo R' (f s) (f' t)) :
    Claims.AlikeUpTo R' (andThen r f) (andThen r' f') := by
  cases r with
  | next s =>
    cases r' with
    | next t => exact second s t first
    | fault | refused => exact first.elim
  | fault e =>
    cases r' with
    | fault e' => exact first
    | next | refused => exact first.elim
  | refused e =>
    cases r' with
    | refused e' => exact first
    | next | fault => exact first.elim

/-- A relation that the trellis steps of two machines keep: the two count alike, and the bytes that each appends are related
by `V`, the symbols that each takes by `S`. -/
structure KeptByTrellis (R : State → State → Prop) (V : Byte → Byte → Prop) (S : Symbol → Symbol → Prop) : Prop where
  counts : ∀ {s t}, R s t → s.nbits = t.nbits ∧ s.nout = t.nout
  acs : ∀ {s t} {r r'}, R s t → S r r' → R (vitAdvance (vitACS r s)) (vitAdvance (vitACS r' t))
  append : ∀ {s t} {v w} (a : Nat), R s t → V v w → R (countByte (storeByte a v s)) (countByte (storeByte a w t))
  emitted : ∀ {s t}, R s t → V (emittedByte s) (emittedByte t)
  flushed : ∀ {s t} (rem : Nat), R s t → V (flushByte ((curBits s).get 0) rem) (flushByte ((curBits t).get 0) rem)

namespace KeptByTrellis

variable {R : State → State → Prop} {V : Byte → Byte → Prop} {S : Symbol → Symbol → Prop}

/-- Appending related bytes. -/
theorem appendByte_alike (k : KeptByTrellis R V S) {s t : State} {v w : Byte} (h : R s t) (hv : V v w) :
    Claims.AlikeUpTo R (appendByte v s) (appendByte w t) := by
  obtain ⟨-, count⟩ := k.counts h
  by_cases inside : s.nout.toNat < msgBytes
  · rw [appendByte_eq_next.mpr ⟨inside, rfl⟩, appendByte_eq_next.mpr ⟨count ▸ inside, rfl⟩, ← count]
    exact k.append _ h hv
  · have outside : 36 ≤ s.nout.toNat := Nat.le_of_not_lt inside
    rw [appendByte_outside outside, appendByte_outside (count ▸ outside), ← count]
    exact rfl

/-- Emission. -/
theorem vitEmit_alike (k : KeptByTrellis R V S) {s t : State} (h : R s t) :
    Claims.AlikeUpTo R (vitEmit s) (vitEmit t) := by
  obtain ⟨steps, count⟩ := k.counts h
  have due : emitDue s = emitDue t := by rw [emitDue, emitDue, steps, count]
  rw [vitEmit, vitEmit, ← due]
  cases emitDue s
  · exact h
  · exact k.appendByte_alike h (k.emitted h)

/-- The flush of related histories. -/
theorem vitFlushLoop_alike (k : KeptByTrellis R V S) {g h : History} (bytes : ∀ rem, V (flushByte g rem) (flushByte h rem)) :
    ∀ (fuel rem : Nat) {s t : State}, R s t → Claims.AlikeUpTo R (vitFlushLoop g fuel rem s) (vitFlushLoop h fuel rem t)
  | 0, _, _, _, related => related
  | fuel + 1, rem, s, t, related => by
    obtain ⟨-, count⟩ := k.counts related
    rw [vitFlushLoop, vitFlushLoop, ← count]
    split
    · exact alikeUpTo_andThen (k.appendByte_alike related (bytes rem)) fun _ _ => k.vitFlushLoop_alike bytes fuel (rem - 8)
    · exact related

/-- The flush. -/
theorem vitFlush_alike (k : KeptByTrellis R V S) {s t : State} (h : R s t) :
    Claims.AlikeUpTo R (vitFlush s) (vitFlush t) := by
  obtain ⟨steps, count⟩ := k.counts h
  have point : atFinalPoint s = atFinalPoint t := by rw [atFinalPoint, atFinalPoint, steps]
  rw [vitFlush, vitFlush, ← point, steps, count]
  split
  · exact k.vitFlushLoop_alike (fun rem => k.flushed rem h) _ _ h
  · exact h

/-- Trellis steps over related symbols. -/
theorem vitSteps_alike (k : KeptByTrellis R V S) {rs rs' : List Symbol} (symbols : List.Forall₂ S rs rs') :
    ∀ {s t : State}, R s t → Claims.AlikeUpTo R (vitSteps rs s) (vitSteps rs' t) := by
  induction symbols with
  | nil => exact id
  | cons symbol _ ih =>
    intro s t h
    refine alikeUpTo_andThen (alikeUpTo_andThen (k.vitEmit_alike (k.acs h symbol)) fun _ _ => k.vitFlush_alike) fun _ _ => ih

end KeptByTrellis

/-! ### The place in the sequence -/

/-- Trellis steps keep two states at the same place, whatever the symbols and the bytes. -/
theorem samePlace_keptByTrellis : KeptByTrellis SamePlace (fun _ _ => True) (fun _ _ => True) where
  counts := fun ⟨_, _, _, steps, count⟩ => ⟨steps, count⟩
  acs := fun ⟨sync, fill, groups, steps, count⟩ _ => ⟨sync, fill, groups, congrArg (· + 1) steps, count⟩
  append := fun _ ⟨sync, fill, groups, steps, count⟩ _ => ⟨sync, fill, groups, steps, congrArg (· + 1) count⟩
  emitted := fun _ => trivial
  flushed := fun _ _ => trivial

/-- Lists of one length are related in any way that relates all. -/
theorem forall₂_true {α β : Type} : ∀ {xs : List α} {ys : List β}, xs.length = ys.length → List.Forall₂ (fun _ _ => True) xs ys
  | [], [], _ => .nil
  | _ :: _, _ :: _, h => .cons trivial (forall₂_true (Nat.succ.inj h))

/-- Completed messages leave one place. -/
theorem samePlace_completed (u v : State) : SamePlace (completed u) (completed v) := by
  have place : ∀ u, (completed u).sync = false ∧ (completed u).grpfill = 0 ∧ (completed u).ngrp = 0 ∧
      (completed u).nbits = 0 ∧ (completed u).nout = 0 := fun u => ⟨rfl, rfl, rfl, rfl, rfl⟩
  simp only [SamePlace, place, and_self]

/-- Settles O49: hunting, filling or full is the same for both; the trellis steps keep the place; a completed message leaves
one place. -/
theorem sequencingIgnoresTheData : Obligations.SequencingIgnoresTheData := by
  intro b c s t place locked
  obtain ⟨sync, fill, groups, steps, count⟩ := place
  have locked' : t.sync = true := sync ▸ locked
  by_cases full : s.grpfill = 31
  · have full' : t.grpfill = 31 := fill ▸ full
    rw [exec_feed_full locked full, exec_feed_full locked' full']
    have place : SamePlace (shiftGroup b (emit .none s)) (shiftGroup c (emit .none t)) :=
      ⟨sync, congrArg (· + 1) fill, groups, steps, count⟩
    refine alikeUpTo_andThen (samePlace_keptByTrellis.vitSteps_alike (forall₂_true ?_) place) fun u v place' => ?_
    · rw [symbolsOf_length, symbolsOf_length]
    · obtain ⟨sync', fill', groups', steps', count'⟩ := place'
      rw [← groups']
      split
      · exact samePlace_completed u v
      · exact ⟨sync', rfl, congrArg (· + 1) groups', steps', count'⟩
  · have full' : t.grpfill ≠ 31 := fill ▸ full
    rw [exec_feed_filling locked full, exec_feed_filling locked' full']
    exact ⟨sync, congrArg (· + 1) fill, groups, steps, count⟩

/-! ### The non-current buffer -/

/-- Of two states that differ in the non-current buffer, the second is the first with other banks. -/
theorem SameButStale.banks {s t : State} (h : SameButStale s t) :
    ∃ (c : Double (PerState Metric)) (b : Double (PerState History)), t = { s with cost := c, bits := b } ∧
      s.cost.get s.p = c.get s.p ∧ s.bits.get s.p = b.get s.p := by
  obtain ⟨cost, bits, rest⟩ := h
  have index : t.p = s.p := by rw [rest]
  rw [curCost, curCost, index] at cost
  rw [curBits, curBits, index] at bits
  exact ⟨_, _, rest, cost, bits⟩

/-- Trellis steps keep two states that differ in the non-current buffer: add-compare-select reads the current one. -/
theorem sameButStale_keptByTrellis : KeptByTrellis SameButStale Eq Eq where
  counts := fun ⟨_, _, rest⟩ => by rw [rest]; exact ⟨rfl, rfl⟩
  acs := by
    rintro s t r _ stale rfl
    have current : curCost s = curCost t ∧ curBits s = curBits t := ⟨stale.1, stale.2.1⟩
    have enc : s.enc = t.enc := by rw [stale.2.2]
    refine ⟨?_, ?_, ?_⟩
    · rw [curCost_vitAdvance_vitACS, curCost_vitAdvance_vitACS, enc, current.1]
    · rw [curBits_vitAdvance_vitACS, curBits_vitAdvance_vitACS, enc, current.1, current.2]
    · obtain ⟨c, b, rfl, -, -⟩ := stale.banks
      rfl
  append := by
    rintro s t v _ a stale rfl
    obtain ⟨c, b, rfl, cost, bits⟩ := stale.banks
    exact ⟨cost, bits, rfl⟩
  emitted := by
    rintro s t ⟨cost, bits, rest⟩
    have steps : s.nbits = t.nbits := by rw [rest]
    rw [emittedByte, emittedByte, selectState_eq, selectState_eq, cost, bits, steps]
  flushed := fun rem ⟨_, bits, _⟩ => by rw [bits]

/-- A completed message leaves one state, whatever the banks were: its check does not read them and its reset clears
them. -/
theorem completed_banks (u : State) (c : Double (PerState Metric)) (b : Double (PerState History)) :
    completed { u with cost := c, bits := b } = completed u := by
  have report : ∀ d : State, messageReport { d with cost := c, bits := b } = messageReport d := fun _ => rfl
  have verdict : ∀ d : State, crcValid { d with cost := c, bits := b } = crcValid d := fun _ => rfl
  have checked := checkMessage_comm (fun d => { d with cost := c, bits := b }) (fun _ _ => rfl) (fun _ => rfl)
    (fun _ => rfl) u
  rw [completed, checked, report, verdict]
  rfl

/-- A bit fed to two states that differ in the non-current buffer. -/
theorem exec_feed_stale (b : Bit) {s t : State} (stale : SameButStale s t) :
    Claims.AlikeUpTo SameButStale (exec (.feed b) s) (exec (.feed b) t) := by
  obtain ⟨c, h, rfl, cost, bits⟩ := stale.banks
  by_cases locked : s.sync = true
  · by_cases full : s.grpfill = 31
    · rw [exec_feed_full locked full, exec_feed_full (s := { s with cost := c, bits := h }) locked full]
      have same : ∀ rs : List Symbol, List.Forall₂ Eq rs rs := fun rs => List.forall₂_same.mpr fun _ _ => rfl
      refine alikeUpTo_andThen (sameButStale_keptByTrellis.vitSteps_alike (same _) ⟨cost, bits, rfl⟩) fun u v stale' => ?_
      obtain ⟨c', h', rfl, cost', bits'⟩ := stale'.banks
      rw [completed_banks]
      split
      · exact ⟨rfl, rfl, rfl⟩
      · exact ⟨cost', bits', rfl⟩
    · rw [exec_feed_filling locked full, exec_feed_filling (s := { s with cost := c, bits := h }) locked full]
      exact ⟨cost, bits, rfl⟩
  · have hunting : s.sync = false := Bool.eq_false_of_not_eq_true locked
    rw [exec_feed_hunting hunting, exec_feed_hunting (s := { s with cost := c, bits := h }) hunting]
    exact ⟨cost, bits, rfl⟩

/-- Settles O50: FEED by `exec_feed_stale`; a resynchronize clears both buffers; nothing else reads or writes them. -/
theorem staleBufferIsInvisible : Obligations.StaleBufferIsInvisible := by
  intro i s t stale
  cases i
  case feed b => exact exec_feed_stale b stale
  all_goals
    obtain ⟨c, h, rfl, cost, bits⟩ := stale.banks
  case resync b => exact ⟨rfl, rfl, rfl⟩
  case resyncFeed b =>
    rw [exec_resyncFeed, exec_resyncFeed b { s with cost := c, bits := h }]
    exact ⟨rfl, rfl, rfl⟩
  all_goals exact ⟨cost, bits, rfl⟩

end Sys2Proof.Machine
end

section
/-! PROOFS. Sequences of events and their outputs (30_encoding.md R87, 46_channel_decoder.md R180, R182). -/

namespace Sys2Proof.Machine

/-! ### Splitting a sequence -/

/-- A sequence that begins with one that answers: its outputs and outcome are those of the rest after it. -/
theorem runEvents_append {xs : List InputEvent} : ∀ {s t : State} {os : List OutEvent}, runEvents xs s = (os, .next t) →
    ∀ ys, runEvents (xs ++ ys) s = (os ++ (runEvents ys t).1, (runEvents ys t).2) := by
  induction xs with
  | nil =>
    intro s t os h ys
    cases h
    rfl
  | cons e xs ih =>
    intro s t os h ys
    obtain ⟨u, os', first, rest, rfl⟩ := runEvents_cons_next h
    rw [List.cons_append, runEvents_cons first, ih rest, List.append_assoc]

/-- An event that reports nothing leaves the outputs to the rest. -/
theorem runEvents_cons_quiet {e : InputEvent} {s t : State} (h : processEvent e s = .next t) (quiet : t.out = .none)
    (rest : List InputEvent) : runEvents (e :: rest) s = runEvents rest t := by
  rw [runEvents_cons h, quiet, reported_none, List.nil_append]

/-- An event given to a settled state answers with a settled one. -/
theorem processEvent_total (e : InputEvent) {s : State} (h : s.Settled) : ∃ t, processEvent e s = .next t ∧ t.Settled :=
  step_total (s := { s with inputs := e :: s.inputs }) h

/-- A sequence given to a settled state completes in a settled one. -/
theorem runEvents_total (events : List InputEvent) : ∀ {s : State}, s.Settled →
    ∃ os t, runEvents events s = (os, .next t) ∧ t.Settled := by
  induction events with
  | nil => exact fun {s} h => ⟨[], s, rfl, h⟩
  | cons e events ih =>
    intro s h
    obtain ⟨t, first, settled⟩ := processEvent_total e h
    obtain ⟨os, u, rest, settled'⟩ := ih settled
    exact ⟨_, u, by rw [runEvents_cons first, rest], settled'⟩

/-- Settles O55: a batch is the sequence of its events. -/
theorem batchesSplitAnywhere : Obligations.BatchesSplitAnywhere := by
  refine ⟨fun xs ys s t os h => ?_, fun events s => runEvents_total events⟩
  rw [runBatch, List.map_append]
  exact runEvents_append h _

/-! ### A mark on an item -/

/-- An event word delivers a bit just when its valid field is set. -/
theorem eventValid_eventWord (r v b : Bit) : eventValid (eventWord r v b) = decide (v = 1) := by
  revert r v b; decide

/-- What the event word of a FEED gives the block. -/
theorem processEvent_feed (b : Bit) (ts : BitVec Config.tsW) (s : State) :
    processEvent ⟨eventWord 0 1 b, ts⟩ s = exec (.feed b) { s with ts := ts } := by
  rw [processEvent_eq, decode, decodeEvent_eventWord, eventValid_eventWord]
  rfl

/-- What the event word of a RESYNC gives the block. -/
theorem processEvent_resync (c : Bit) (ts : BitVec Config.tsW) (s : State) :
    processEvent ⟨eventWord 1 0 c, ts⟩ s = .next (doResync (emit .none s)) := by
  rw [processEvent_eq, decode, decodeEvent_eventWord, eventValid_eventWord]
  rfl

/-- What the event word of a RESYNC_FEED gives the block. -/
theorem processEvent_resyncFeed (b : Bit) (ts : BitVec Config.tsW) (s : State) :
    processEvent ⟨eventWord 1 1 b, ts⟩ s = exec (.resyncFeed b) { s with ts := ts } := by
  rw [processEvent_eq, decode, decodeEvent_eventWord, eventValid_eventWord]
  rfl

/-- A bit fed after a RESYNC, or under a mark. -/
theorem exec_feed_doResync (b : Bit) (ts : BitVec Config.tsW) (s : State) :
    exec (.feed b) { doResync (emit .none s) with ts := ts } = exec (.resyncFeed b) { s with ts := ts } := rfl

/-- Settles O56: both deliveries are a bit fed after the reset, and that answers with `NONE`. -/
theorem markMayBeDeliveredEitherWay : Obligations.MarkMayBeDeliveredEitherWay := by
  intro b c u v s
  obtain ⟨t, answers, quiet⟩ : ∃ t, exec (.resyncFeed b) { s with ts := v } = .next t ∧ t.out = .none :=
    ⟨_, exec_resyncFeed b _, rfl⟩
  have marked := (processEvent_resyncFeed b v s).trans answers
  have fed := (processEvent_feed b v (doResync (emit .none s))).trans ((exec_feed_doResync b v s).trans answers)
  refine ⟨t, ?_, ?_⟩
  · rw [runEvents_cons_quiet (processEvent_resync c u s) rfl, runEvents_cons_quiet fed quiet, runEvents_nil]
  · exact runEvents_cons_quiet marked quiet []

/-! ### Outputs and counters -/

/-- An event word decodes to an event. -/
theorem decodeEvent_isEvent (w : EventWord) : (decodeEvent w).isEvent = true := by
  revert w; decide

/-- Whether an output is a record that passed. -/
def isPassed : OutEvent → Bool
  | .record r => r.valid
  | .none => false
  | .crcFail _ _ => false

/-- The pass counter's law, in the terms of `isPassed`. -/
theorem cntPass_eq {i : Instr} {s t : State} (event : i.isEvent = true) (h : exec i s = .next t) :
    t.cntPass = if isPassed t.out then s.cntPass + 1 else s.cntPass := by
  obtain ⟨-, pass, -⟩ := countersFollowTheOutputs i s t event h
  rw [pass]
  cases t.out <;> rfl

/-- One event's output is what its counters count. -/
theorem processEvent_counters {e : InputEvent} {s t : State} (h : processEvent e s = .next t) :
    t.cntAttempt = s.cntAttempt + BitVec.ofNat Config.cntW (reported t.out).length ∧
    t.cntPass = s.cntPass + BitVec.ofNat Config.cntW ((reported t.out).filter isPassed).length := by
  rw [processEvent_eq] at h
  obtain ⟨attempt, -⟩ := countersFollowTheOutputs _ _ _ (decodeEvent_isEvent e.word) h
  rw [attempt, cntPass_eq (decodeEvent_isEvent e.word) h]
  cases t.out with
  | none | crcFail => simp [isPassed]
  | record r => cases verdict : r.valid <;> simp [isPassed, verdict]

/-- Over a sequence the counters rise by its outputs, none of which is `NONE`. -/
theorem runEvents_counters {events : List InputEvent} : ∀ {s t : State} {os : List OutEvent},
    runEvents events s = (os, .next t) →
      t.cntAttempt = s.cntAttempt + BitVec.ofNat Config.cntW os.length ∧
      t.cntPass = s.cntPass + BitVec.ofNat Config.cntW (os.filter isPassed).length ∧ OutEvent.none ∉ os := by
  induction events with
  | nil =>
    intro s t os h
    cases h
    simp
  | cons e events ih =>
    intro s t os h
    obtain ⟨u, os', first, rest, rfl⟩ := runEvents_cons_next h
    obtain ⟨attempt, pass⟩ := processEvent_counters first
    obtain ⟨attempt', pass', silent⟩ := ih rest
    refine ⟨?_, ?_, ?_⟩
    · rw [attempt', attempt, List.length_append, BitVec.ofNat_add, BitVec.add_assoc]
    · rw [pass', pass, List.filter_append, List.length_append, BitVec.ofNat_add, BitVec.add_assoc]
    · rw [List.mem_append]
      exact fun mem => mem.elim (fun here => (mem_reported.mp here).2 (mem_reported.mp here).1.symm) silent

/-- Settles O57, by `runEvents_counters`. -/
theorem sequenceOutputsMatchTheCounters : Obligations.SequenceOutputsMatchTheCounters := by
  intro events s t os h
  obtain ⟨attempt, pass, silent⟩ := runEvents_counters h
  refine ⟨attempt, ?_, silent⟩
  rw [pass]
  congr 4
  funext o
  cases o <;> rfl

end Sys2Proof.Machine
end

section
/-! PROOFS. Bits shifted into a word, the sync word among them (20_memory.md R73, 40_bitsync.md R108). -/

namespace Sys2Proof.Machine

/-! ### Bits shifted into a word -/

/-- A bit enters a word at its low end: what the sync register, the group buffer, a history and the encoder do. -/
abbrev shiftIn {n : Nat} (x : BitVec n) (b : Bit) : BitVec n := (x <<< 1) ||| b.setWidth n

/-- The bits of a word into which bits have been shifted: the latest bit lowest, and above them the old word's. -/
theorem getLsbD_foldl_shiftIn {n : Nat} (bs : List Bit) (x : BitVec n) {i : Nat} (hi : i < n) :
    (bs.foldl shiftIn x).getLsbD i =
      if i < bs.length then (bs.reverse.getD i 0).getLsbD 0 else x.getLsbD (i - bs.length) := by
  induction bs using List.reverseRecOn generalizing i with
  | nil => simp
  | append_singleton bs b ih =>
    rw [List.foldl_append, List.foldl_cons, List.foldl_nil, List.reverse_append, List.length_append]
    cases i with
    | zero => simp [hi]
    | succ i =>
      have bit : (b.setWidth n).getLsbD (i + 1) = false := by simp
      rw [shiftIn, BitVec.getLsbD_or, BitVec.getLsbD_shiftLeft, bit, Nat.add_sub_cancel, ih (by omega)]
      simp [hi]

/-- Bit `i` of a word, among its bits from the last to the first. -/
theorem bitsOf_reverse_getD {n : Nat} (w : BitVec n) {i : Nat} (hi : i < n) :
    (bitsOf n w).reverse.getD i 0 = w.extractLsb' i 1 := by
  rw [List.getD_eq_getElem _ _ (by simpa [bitsOf] using hi), List.getElem_reverse]
  simp only [bitsOf, List.length_map, List.length_range, List.getElem_map, List.getElem_range]
  congr 1
  omega

@[simp] theorem bitsOf_length {n : Nat} (w : BitVec n) : (bitsOf n w).length = n := by simp [bitsOf]

/-- All the bits of a word, shifted into any word, leave that word. -/
theorem foldl_shiftIn_bitsOf {n : Nat} (w x : BitVec n) : (bitsOf n w).foldl shiftIn x = w := by
  refine BitVec.eq_of_getLsbD_eq fun i hi => ?_
  rw [getLsbD_foldl_shiftIn _ _ hi, bitsOf_length, if_pos hi, bitsOf_reverse_getD w hi]
  simp

/-! ### The sync word among the bits -/

/-- A bit of a word into which bits have been shifted from a cleared one. -/
theorem extractLsb'_foldl_shiftIn (bs : List Bit) {i : Nat} (hi : i < 16) :
    (bs.foldl shiftIn (0 : BitVec 16)).extractLsb' i 1 = bs.reverse.getD i 0 := by
  refine BitVec.eq_of_getLsbD_eq fun j hj => ?_
  obtain rfl : j = 0 := by omega
  rw [BitVec.getLsbD_extractLsb', getLsbD_foldl_shiftIn _ _ (by omega)]
  by_cases inside : i < bs.length
  · simp [inside]
  · simp [inside]

/-- The cleared register holds the sync word just when the last sixteen bits fed are its bits. -/
theorem foldl_shiftIn_eq_syncWord (bs : List Bit) :
    bs.foldl shiftIn (0 : BitVec 16) = syncWord ↔ ∃ pre, bs = pre ++ syncBits := by
  constructor
  · intro word
    have bit : ∀ i, i < 16 → bs.reverse.getD i 0 = syncWord.extractLsb' i 1 := fun i hi => by
      rw [← extractLsb'_foldl_shiftIn bs hi, word]
    have long : 15 < bs.reverse.length := by
      by_contra short
      have top := bit 15 (by decide)
      rw [List.getD_eq_default _ _ (by omega)] at top
      exact absurd top (by decide)
    have last : bs.reverse.take 16 = syncBits.reverse := by
      have bits : syncBits.reverse = (List.range 16).map fun i => syncWord.extractLsb' i 1 := by decide
      rw [bits]
      refine List.ext_getElem (by simp at long ⊢; omega) fun i hi _ => ?_
      have inside : i < 16 := by simp at hi; omega
      rw [List.getElem_take, List.getElem_map, List.getElem_range, ← bit i inside, List.getD_eq_getElem]
    refine ⟨(bs.reverse.drop 16).reverse, ?_⟩
    rw [← List.reverse_inj, List.reverse_append, List.reverse_reverse, ← last, List.take_append_drop]
  · rintro ⟨pre, rfl⟩
    rw [List.foldl_append]
    exact foldl_shiftIn_bitsOf syncWord _

/-- Bits fed in two parts. -/
theorem feedBits_append (xs ys : List Bit) (s : State) :
    feedBits (xs ++ ys) s = andThen (feedBits xs s) (feedBits ys) := by
  induction xs generalizing s with
  | nil => rfl
  | cons b xs ih =>
    rw [List.cons_append, feedBits, feedBits, andThen_assoc]
    exact congrArg (andThen _) (funext ih)

/-- Bits fed to a cleared register, no match before the last of them: the register holds them, the
flag says whether the sync word ends them, and nothing else changes. -/
theorem feedBits_hunting {s : State} (hunting : s.sync = false) (cleared : s.reg = 0) (bs : List Bit)
    (noMatch : ∀ pre post : List Bit, bs = pre ++ syncBits ++ post → post = []) :
    ∃ o : OutEvent, feedBits bs s = .next { s with
      sync := decide (bs.foldl shiftIn (0 : BitVec 16) = syncWord)
      reg := bs.foldl shiftIn (0 : BitVec 16)
      out := o } := by
  induction bs using List.reverseRecOn with
  | nil =>
    refine ⟨s.out, ?_⟩
    have none : decide (([] : List Bit).foldl shiftIn (0 : BitVec 16) = syncWord) = false := by decide
    rw [none, ← hunting, List.foldl_nil, ← cleared]
    rfl
  | append_singleton bs b ih =>
    have before : ∀ pre post : List Bit, bs ≠ pre ++ syncBits ++ post := fun pre post h =>
      absurd (noMatch pre (post ++ [b]) (by rw [h, List.append_assoc])) (by simp)
    obtain ⟨o, fed⟩ := ih fun pre post h => absurd h (before pre post)
    have unlocked : decide (bs.foldl shiftIn (0 : BitVec 16) = syncWord) = false := decide_eq_false fun word => by
      obtain ⟨pre, h⟩ := (foldl_shiftIn_eq_syncWord bs).mp word
      exact before pre [] (by rw [h, List.append_nil])
    refine ⟨.none, ?_⟩
    rw [feedBits_append, fed, andThen_next, feedBits, exec_feed_hunting unlocked, andThen_next, List.foldl_append]
    rfl

/-- Settles O15, by `feedBits_hunting` and `foldl_shiftIn_eq_syncWord`. -/
theorem lockNeedsTheWholeSyncWord : Obligations.LockNeedsTheWholeSyncWord := by
  intro bs s hunting cleared noMatch
  obtain ⟨o, fed⟩ := feedBits_hunting hunting cleared bs noMatch
  refine ⟨_, fed, ?lock, fun n hn => ?bits, rfl⟩
  case lock => rw [decide_eq_true_iff, foldl_shiftIn_eq_syncWord]
  case bits => exact extractLsb'_foldl_shiftIn bs hn

end Sys2Proof.Machine
end

section
/-! PROOFS. The Viterbi decoder over the symbols of a message that were received without noise: after every trellis step the
bytes appended so far are the message's (42_viterbi.md R130, R133). -/

namespace Sys2Proof.Machine

/-! ### The bits of a message -/

/-- The bits of some bytes as the encoder takes them, each byte's bit 7 first. -/
abbrev messageBits (m : List Byte) : List Bit := m.flatMap (bitsOf 8)

theorem messageBits_length (m : List Byte) : (messageBits m).length = 8 * m.length := by
  induction m with
  | nil => rfl
  | cons x m ih => rw [messageBits, List.flatMap_cons, List.length_append, ih, bitsOf_length, List.length_cons]; omega

/-- Bit `i` of a message is a bit of its byte `i / 8`. -/
theorem messageBits_getD (m : List Byte) (i : Nat) :
    (messageBits m).getD i 0 = (m.getD (i / 8) 0).extractLsb' (7 - i % 8) 1 := by
  induction m generalizing i with
  | nil => simp
  | cons x m ih =>
    rw [messageBits, List.flatMap_cons]
    by_cases first : i < 8
    · rw [List.getD_append _ _ _ _ (by rwa [bitsOf_length]), Nat.div_eq_of_lt first, Nat.mod_eq_of_lt first]
      simp [bitsOf, first]
    · obtain ⟨j, rfl⟩ : ∃ j, i = j + 8 := ⟨i - 8, by omega⟩
      rw [List.getD_append_right _ _ _ _ (by rw [bitsOf_length]; omega), bitsOf_length, Nat.add_sub_cancel, ih,
        show (j + 8) / 8 = j / 8 + 1 by omega, Nat.add_mod_right, List.getD_cons_succ]

/-- Bit `i` of a word into which the first `n` bits of a message have been shifted. -/
theorem getLsbD_shiftIn_messageBits {w : Nat} {m : List Byte} {n i : Nat} (hn : n ≤ 8 * m.length) (hi : i < n) (hw : i < w) :
    (((messageBits m).take n).foldl shiftIn (0 : BitVec w)).getLsbD i =
      (m.getD ((n - 1 - i) / 8) 0).getLsbD (7 - (n - 1 - i) % 8) := by
  have length : ((messageBits m).take n).length = n := by rw [List.length_take, messageBits_length]; omega
  have place : ((messageBits m).take n).reverse.getD i 0 = (messageBits m).getD (n - 1 - i) 0 := by
    rw [List.getD_eq_getElem _ _ (by rw [List.length_reverse, length]; exact hi), List.getElem_reverse, List.getElem_take,
      List.getD_eq_getElem _ _ (by rw [messageBits_length]; omega)]
    simp only [length]
  rw [getLsbD_foldl_shiftIn _ _ hw, if_pos (by rw [length]; exact hi), place, messageBits_getD]
  simp

/-- A history of the first `n` bits of a message holds byte `a`, if that is whole and recent enough. -/
theorem history_field {m : List Byte} {n a : Nat} (hn : n ≤ 8 * m.length) (whole : 8 * a + 8 ≤ n) (recent : n ≤ 8 * a + 32) :
    (((messageBits m).take n).foldl shiftIn (0 : History)).extractLsb' (n - (8 * a + 8)) 8 = m.getD a 0 := by
  refine BitVec.eq_of_getLsbD_eq fun j hj => ?_
  rw [BitVec.getLsbD_extractLsb', getLsbD_shiftIn_messageBits hn (by omega) (by omega),
    show (n - 1 - (n - (8 * a + 8) + j)) / 8 = a by omega, show 7 - (n - 1 - (n - (8 * a + 8) + j)) % 8 = j by omega]
  simp [hj]

/-! ### The encoder -/

/-- A message of 36 bytes whose last two are zero on the air (20_memory.md R68). -/
structure Padded (m : List Byte) : Prop where
  length : m.length = 36
  zero34 : m.getD 34 0 = 0
  zero35 : m.getD 35 0 = 0

/-- The encoder's state after the first `n` bits of a message. -/
abbrev stateAfter (m : List Byte) (n : Nat) : TrellisState := encoderState 0 ((messageBits m).take n)

/-- At the two forced points the encoder is in state 0 (42_viterbi.md R126, decision D17). -/
theorem stateAfter_forced {m : List Byte} (h : Padded m) {n : Nat} (forced : n = 280 ∨ n = 288) : stateAfter m n = 0 := by
  refine BitVec.eq_of_getLsbD_eq fun i hi => ?_
  have bit := getLsbD_shiftIn_messageBits (w := 3) (m := m) (n := n) (i := i) (by rw [h.length]; omega) (by omega) hi
  have byte : m.getD ((n - 1 - i) / 8) 0 = 0 := by
    rcases forced with rfl | rfl
    · rw [show (280 - 1 - i) / 8 = 34 by omega, h.zero34]
    · rw [show (288 - 1 - i) / 8 = 35 by omega, h.zero35]
  rw [byte] at bit
  exact bit.trans (by simp)

/-- The next bit moves the encoder on. -/
theorem stateAfter_succ {m : List Byte} {n : Nat} (h : n < (messageBits m).length) :
    nextState (stateAfter m n) (messageBits m)[n] = stateAfter m (n + 1) := by
  rw [stateAfter, stateAfter, ← List.take_append_getElem h, encoderState, encoderState, List.foldl_append]
  rfl

/-- The symbols of some bits from the `n`th on are those of the rest from the state that the first `n` leave. -/
theorem convolve_drop (e : CodeTable) (us : List Bit) : ∀ (q : TrellisState) (n : Nat),
    (convolve e q us).drop n = convolve e (encoderState q (us.take n)) (us.drop n) := by
  induction us with
  | nil => intro q n; simp [convolve, encoderState]
  | cons u us ih =>
    intro q n
    cases n with
    | zero => rfl
    | succ n => rw [convolve, List.drop_succ_cons, ih, List.take_succ_cons, List.drop_succ_cons]; rfl

/-- The symbols of a message in a code table. -/
abbrev messageSymbols (e : CodeTable) (m : List Byte) : List Symbol := convolve e 0 (messageBits m)

/-- The symbols from the `n`th on begin with that of bit `n`. -/
theorem messageSymbols_drop (e : CodeTable) {m : List Byte} {n : Nat} (h : n < (messageBits m).length) :
    (messageSymbols e m).drop n = expected e (stateAfter m n) (messageBits m)[n] :: (messageSymbols e m).drop (n + 1) := by
  rw [messageSymbols, convolve_drop, convolve_drop, List.drop_eq_getElem_cons h, convolve]
  congr 2
  exact stateAfter_succ h

/-! ### The decoder on the true path -/

/-- The encoder's state after `n` bits of `m` alone has metric 0, and its history holds the latest of those bits. -/
structure TruePath (m : List Byte) (n : Nat) (s : State) : Prop where
  alone : AloneAtZero (curCost s) (stateAfter m n)
  history : (curBits s).get (stateAfter m n) = ((messageBits m).take n).foldl shiftIn (0 : History)

/-- Appending bytes leaves the path. -/
theorem TruePath.appends {m : List Byte} {n : Nat} {s t : State} (h : TruePath m n s) (a : AppendsOnly s t) :
    TruePath m n t := by
  have cost : curCost t = curCost s := by rw [a.rest]; rfl
  have bits : curBits t = curBits s := by rw [a.rest]; rfl
  exact ⟨cost ▸ h.alone, bits ▸ h.history⟩

/-- The symbol of the next bit moves the path on. -/
theorem TruePath.step {m : List Byte} {n : Nat} {s : State} (he : Distinguishes s.enc) (h : TruePath m n s)
    (hn : n < (messageBits m).length) :
    TruePath m (n + 1) (vitAdvance (vitACS (expected s.enc (stateAfter m n) (messageBits m)[n]) s)) := by
  obtain ⟨alone, history⟩ := cleanStep he h.alone (messageBits m)[n]
  rw [stateAfter_succ hn] at alone history
  refine ⟨alone, history.trans ?_⟩
  rw [h.history, ← List.take_append_getElem hn, List.foldl_append]
  rfl

/-- The state selected on the true path is the encoder's, at the forced points too. -/
theorem TruePath.selectState_eq {m : List Byte} (hm : Padded m) {n : Nat} {s : State} (h : TruePath m n s)
    (steps : s.nbits.toNat = n) : selectState s = stateAfter m n := by
  rw [Machine.selectState_eq]
  split
  · next forced =>
    refine (stateAfter_forced hm (steps ▸ ?_)).symm
    exact forced.imp (fun h => by rw [h]; rfl) (fun h => by rw [h]; rfl)
  · exact h.alone.argmin_eq

/-- The bytes appended so far are the message's. -/
def DecodedSoFar (m : List Byte) (s : State) : Prop := ∀ a, a < s.nout.toNat → s.msg.byteAt a = m.getD a 0

/-- Emission on the true path appends the message's next byte. -/
theorem DecodedSoFar.emit {m : List Byte} (hm : Padded m) {n : Nat} {s t : State} (decoded : DecodedSoFar m s)
    (path : TruePath m n s) (steps : s.nbits.toNat = n) (hn : n ≤ 288) (wf : s.msg.wf = true) (h : vitEmit s = .next t) :
    DecodedSoFar m t := by
  rcases vitEmit_eq_next.mp h with ⟨-, rfl⟩ | ⟨due, inside, rfl⟩
  · exact decoded
  · have at32 := (emitDue_iff s).mp due
    have byte : emittedByte s = m.getD s.nout.toNat 0 := by
      rw [emittedByte, path.selectState_eq hm steps, path.history,
        show numVHist = n - (8 * s.nout.toNat + 8) by simp only [numVHist]; omega]
      exact history_field (by rw [hm.length]; exact hn) (by omega) (by omega)
    intro a ha
    rw [nout_succ inside] at ha
    rw [countByte_msg, storeByte_msg, Memory.byteAt_store wf, byte]
    by_cases last : a = s.nout.toNat
    · rw [if_pos last, last]
    · rw [if_neg last]
      exact decoded a (by omega)

/-- The flush on the true path appends the message's last three bytes. -/
theorem DecodedSoFar.flush {m : List Byte} (hm : Padded m) {n : Nat} {s t : State} (decoded : DecodedSoFar m s)
    (path : TruePath m n s) (steps : s.nbits.toNat = n) (count : n = 288 → s.nout = 33) (wf : s.msg.wf = true)
    (h : vitFlush s = .next t) : DecodedSoFar m t := by
  by_cases final : n = 288
  · obtain ⟨t', run, rest, byte33, byte34, byte35, others⟩ :=
      flushAppendsTheLastThreeBytes.2 s (BitVec.eq_of_toNat_eq (steps.trans final)) (count final) wf
    obtain rfl : t' = t := Host.Outcome.next.inj (run.symm.trans h)
    have field := fun a => history_field (m := m) (n := 288) (a := a) (by rw [hm.length])
    rw [← curBits, ← stateAfter_forced hm (.inr rfl), ← final, path.history, final] at byte33 byte34 byte35
    intro a ha
    have nout : t'.nout.toNat = 36 := by rw [rest]; rfl
    rcases (by omega : a < 33 ∨ a = 33 ∨ a = 34 ∨ a = 35) with early | rfl | rfl | rfl
    · rw [others a (.inl early)]
      exact decoded a (by rw [count final]; exact early)
    · exact byte33.trans (field 33 (by decide) (by decide))
    · exact byte34.trans (field 34 (by decide) (by decide))
    · exact byte35.trans (field 35 (by decide) (by decide))
  · rw [vitFlush_early fun at288 => final (by rw [← steps, at288]; rfl)] at h
    obtain rfl := Host.Outcome.next.inj h
    exact decoded

/-- The decoder after `n` trellis steps over the symbols of `m`. -/
structure OnPath (m : List Byte) (n : Nat) (s : State) : Prop where
  path : TruePath m n s
  schedule : OnSchedule s
  steps : s.nbits.toNat = n
  decoded : DecodedSoFar m s

/-- At the final step byte 32 is emitted, on schedule. -/
theorem last_emission_count {r : Symbol} {s u : State} (schedule : OnSchedule s)
    (h : vitEmit (vitAdvance (vitACS r s)) = .next u) (final : s.nbits.toNat + 1 = 288) : u.nout = 33 := by
  have stepped : (vitAdvance (vitACS r s)).nbits.toNat = s.nbits.toNat + 1 := by
    rw [vitAdvance_nbits, vitACS_nbits]; bv_omega
  have count : (vitAdvance (vitACS r s)).nout.toNat = 32 := by
    rw [vitAdvance_nout, vitACS_nout, schedule.count, show s.nbits.toNat = 287 by omega]; rfl
  rcases vitEmit_eq_next.mp h with ⟨idle, -⟩ | ⟨-, inside, rfl⟩
  · have due := (emitDue_iff (vitAdvance (vitACS r s))).mpr (by omega)
    exact absurd (idle.symm.trans due) (by decide)
  · refine BitVec.eq_of_toNat_eq ?_
    rw [nout_succ inside, count]
    rfl

/-- One trellis step over the symbol of the message's next bit. -/
theorem OnPath.step {m : List Byte} (hm : Padded m) {n : Nat} {s : State} (he : Distinguishes s.enc) (h : OnPath m n s)
    (hn : n < (messageBits m).length) :
    ∃ t, vitStep (expected s.enc (stateAfter m n) (messageBits m)[n]) s = .next t ∧ OnPath m (n + 1) t := by
  obtain ⟨path, schedule, steps, decoded⟩ := h
  have small : n < 288 := by rw [messageBits_length, hm.length] at hn; exact hn
  generalize hr : expected s.enc (stateAfter m n) (messageBits m)[n] = r
  obtain ⟨t, run, schedule', -, steps'⟩ := vitStep_onSchedule (r := r) schedule (by omega)
  have path' : TruePath m (n + 1) (vitAdvance (vitACS r s)) := hr ▸ path.step he hn
  have stepped : (vitAdvance (vitACS r s)).nbits.toNat = n + 1 := by
    rw [vitAdvance_nbits, vitACS_nbits]; bv_omega
  obtain ⟨u, emitted, flushed⟩ := andThen_eq_next.mp run
  have appends := vitEmit_appends emitted
  have stepped' : u.nbits.toNat = n + 1 := by rw [appends.rest]; exact stepped
  have count : n + 1 = 288 → u.nout = 33 := fun final => last_emission_count schedule emitted (by omega)
  have decoded' : DecodedSoFar m u := DecodedSoFar.emit hm (s := vitAdvance (vitACS r s)) decoded path' stepped
    (by omega) schedule.wf emitted
  exact ⟨t, run, path'.appends (vitStep_next run), schedule', by omega,
    decoded'.flush hm (path'.appends appends) stepped' count (appends.wf schedule.wf) flushed⟩

/-- Trellis steps over the symbols of the message's next `k` bits. -/
theorem OnPath.vitSteps {m : List Byte} (hm : Padded m) {e : CodeTable} (he : Distinguishes e) (k : Nat) :
    ∀ {n : Nat} {s : State}, OnPath m n s → s.enc = e → n + k ≤ 288 →
      ∃ t, vitSteps (((messageSymbols e m).drop n).take k) s = .next t ∧ OnPath m (n + k) t := by
  induction k with
  | zero => exact fun {n s} h _ _ => ⟨s, by rw [List.take_zero]; rfl, h⟩
  | succ k ih =>
    intro n s h enc room
    have hn : n < (messageBits m).length := by rw [messageBits_length, hm.length]; omega
    obtain ⟨u, first, h'⟩ := h.step hm (enc ▸ he) hn
    have enc' : u.enc = e := by rw [(vitStep_trellis first).1.rest]; exact enc
    obtain ⟨t, rest, h''⟩ := ih h' enc' (by omega)
    refine ⟨t, ?_, by rwa [Nat.add_right_comm] at h''⟩
    rw [messageSymbols_drop e hn, List.take_succ_cons, Machine.vitSteps, ← enc, first, andThen_next, enc, rest]

end Sys2Proof.Machine
end

section
/-! PROOFS. A clean frame on the wire: the sync word locks, each of eighteen groups carries sixteen symbols of the message's
code, and the descrambled message passes its CRC (46_channel_decoder.md R183, 95_test_vectors.md section 2). -/

namespace Sys2Proof.Machine

/-! ### The groups of a frame -/

/-- Group `g` of a message on the wire. -/
def wireGroup (e : CodeTable) (m : List Byte) (g : Nat) : Group :=
  deinterleave (packSymbols (((messageSymbols e m).drop (16 * g)).take 16))

/-- The groups of a symbol sequence, by their number. -/
theorem wireGroups_eq (n : Nat) (xs : List Symbol) :
    wireGroups n xs = (List.range n).map fun g => deinterleave (packSymbols ((xs.drop (16 * g)).take 16)) := by
  induction n generalizing xs with
  | zero => rfl
  | succ n ih =>
    rw [wireGroups, ih, List.range_succ_eq_map, List.map_cons, List.map_map]
    congr 1
    refine List.map_congr_left fun g _ => ?_
    rw [List.drop_drop, symsPerGroup, Function.comp_apply, Nat.succ_eq_add_one, Nat.mul_succ, Nat.add_comm]

/-- The channel bits of a message: seventeen groups and the last one. -/
theorem encodeMessage_eq (e : CodeTable) (m : List Byte) :
    encodeMessage e m = ((List.range 17).flatMap fun g => bitsOf 32 (wireGroup e (whiten m) g)) ++
      bitsOf 32 (wireGroup e (whiten m) 17) := by
  have count : groupsPerMsg.toNat = 17 + 1 := rfl
  rw [encodeMessage, wireGroups_eq, List.flatMap_map, count, List.range_succ, List.flatMap_append, List.flatMap_singleton]
  rfl

theorem convolve_length (e : CodeTable) (us : List Bit) : ∀ q, (convolve e q us).length = us.length := by
  induction us with
  | nil => exact fun _ => rfl
  | cons u us ih => exact fun q => congrArg (· + 1) (ih _)

/-- The symbols of a received group are sixteen of the message's, as they were sent: the interleaver is undone. -/
theorem symbolsOf_wireGroup {e : CodeTable} {m : List Byte} (hm : Padded m) {g : Nat} (hg : g ≤ 17) :
    symbolsOf (deinterleave (wireGroup e m g)) = ((messageSymbols e m).drop (16 * g)).take 16 := by
  rw [wireGroup, deinterleave_deinterleave]
  refine symbolsOf_packSymbols ?_
  rw [List.length_take, List.length_drop, messageSymbols, convolve_length, messageBits_length, hm.length]
  omega

/-! ### The message -/

theorem whitening_length (n : Nat) : ∀ l, (whitening n l).length = n := by
  induction n with
  | zero => exact fun _ => rfl
  | succ n ih => exact fun l => congrArg (· + 1) (ih _)

theorem whiten_length (m : List Byte) : (whiten m).length = m.length := by
  rw [whiten, List.length_zipWith, whitening_length, min_self]

/-- Byte `a` of a whitened message. -/
theorem whiten_getD {m : List Byte} {a : Nat} (h : a < m.length) :
    (whiten m).getD a 0 = m.getD a 0 ^^^ whitenByte (lfsrSteps (8 * a) lfsrInit) := by
  have mask := whitening_getD m.length a lfsrInit h
  rw [List.getD_eq_getElem _ _ (by rw [whitening_length]; exact h)] at mask
  rw [List.getD_eq_getElem _ _ (by rw [whiten_length]; exact h), List.getD_eq_getElem _ _ h, ← mask]
  exact List.getElem_zipWith

/-- The CRC of a body. -/
abbrev bodyCrc (body : List Byte) : BitVec 16 := crcBytes crcInit body

/-- A message, spelled out: body, CRC, padding. -/
theorem makeMessage_eq (body : List Byte) : makeMessage body =
    body ++ [(bodyCrc body).extractLsb' 8 8, (bodyCrc body).extractLsb' 0 8, 0x93, 0xDF] := by
  simp [makeMessage, withCrc]

theorem makeMessage_length {body : List Byte} (h : body.length = 32) : (makeMessage body).length = 36 := by
  rw [makeMessage_eq, List.length_append, h]; rfl

/-- The message's first 32 bytes are its body. -/
theorem makeMessage_getD_body {body : List Byte} (h : body.length = 32) {a : Nat} (ha : a < 32) :
    (makeMessage body).getD a 0 = body.getD a 0 := by
  rw [makeMessage_eq, List.getD_append _ _ _ _ (h ▸ ha)]

/-- The message's last four bytes. -/
theorem makeMessage_getD_tail {body : List Byte} (h : body.length = 32) (i : Nat) :
    (makeMessage body).getD (32 + i) 0 =
      [(bodyCrc body).extractLsb' 8 8, (bodyCrc body).extractLsb' 0 8, 0x93, 0xDF].getD i 0 := by
  rw [makeMessage_eq, List.getD_append_right _ _ _ _ (by omega), h, Nat.add_sub_cancel_left]

/-- A whitened message is padded: its last two bytes are the whitening sequence's (20_memory.md R68). -/
theorem padded_whiten {body : List Byte} (h : body.length = 32) : Padded (whiten (makeMessage body)) := by
  have length := makeMessage_length h
  have masks : whitenByte (lfsrSteps (8 * 34) lfsrInit) = 0x93 ∧ whitenByte (lfsrSteps (8 * 35) lfsrInit) = 0xDF := by
    decide +kernel
  refine ⟨by rw [whiten_length, length], ?_, ?_⟩
  · rw [whiten_getD (by rw [length]; decide), makeMessage_getD_tail h 2, masks.1]
    exact BitVec.xor_self
  · rw [whiten_getD (by rw [length]; decide), makeMessage_getD_tail h 3, masks.2]
    exact BitVec.xor_self

/-- The bytes of a buffer are those of a list that it agrees with. -/
theorem bytesFrom_eq {m : Memory} {n : Nat} {xs : List Byte} (length : n ≤ xs.length)
    (bytes : ∀ a, a < n → m.byteAt a = xs.getD a 0) : m.bytesFrom 0 n = xs.take n := by
  refine List.ext_getElem (by simp [Memory.bytesFrom, length]) fun a ha _ => ?_
  have inside : a < n := by simpa [Memory.bytesFrom] using ha
  simp [Memory.bytesFrom, bytes a inside, List.getElem?_eq_getElem (Nat.lt_of_lt_of_le inside length)]

/-- A word is put together from its two bytes. -/
theorem append_halves (c : BitVec 16) : c.extractLsb' 8 8 ++ c.extractLsb' 0 8 = c := by
  refine BitVec.eq_of_getLsbD_eq fun i hi => ?_
  rw [BitVec.getLsbD_append]
  by_cases low : i < 8
  · simp [low]
  · simp [low, show i - 8 < 8 by omega, show 8 + (i - 8) = i by omega]

/-- The check of a decoded message: the descrambled bytes are the message that was encoded, and its CRC is the one
transmitted. -/
theorem checkMessage_decoded {body : List Byte} (h : body.length = 32) {u : State} (wf : u.msg.wf = true)
    (lfsr : u.lfsr = lfsrInit) (crc : u.crc = crcInit) (count : u.nout.toNat = 36)
    (decoded : DecodedSoFar (whiten (makeMessage body)) u) :
    (∀ a, a < 36 → (checkMessage u).msg.byteAt a = (makeMessage body).getD a 0) ∧
    (checkMessage u).crc = bodyCrc body ∧ (checkMessage u).rxcrc = bodyCrc body := by
  have length := makeMessage_length h
  have msg : (checkMessage u).msg = (descrMsg u).msg := by rw [checkMessage, crcRx_msg, crcMsg_msg]
  have bytes : ∀ a, a < 36 → (descrMsg u).msg.byteAt a = (makeMessage body).getD a 0 := by
    intro a ha
    rw [descrMsg_byteAt wf, if_pos ha, decoded a (by omega), whiten_getD (by omega), lfsr, BitVec.xor_assoc,
      BitVec.xor_self, BitVec.xor_zero]
  refine ⟨fun a ha => by rw [msg, bytes a ha], ?computed, ?received⟩
  case computed =>
    have covered : (descrMsg u).msg.bytesFrom 0 crcCover = body := by
      rw [crcCover, bytesFrom_eq (xs := body) (by omega) fun a ha => by
        rw [bytes a (by omega), makeMessage_getD_body h ha], ← h, List.take_length]
    have kept : (descrMsg u).crc = u.crc := by rw [(descrMsg_frame u).1]
    rw [checkMessage, crcRx_crc, crcMsg_crc, covered, kept, crc]
  case received =>
    have high := (bytes 32 (by decide)).trans (makeMessage_getD_tail h 0)
    have low := (bytes 33 (by decide)).trans (makeMessage_getD_tail h 1)
    rw [checkMessage, crcRx_rxcrc, crcMsg_msg, crcRxOf, be16, high, low]
    exact append_halves _

end Sys2Proof.Machine
end

section
/-! PROOFS. Sequences that report nothing, and a run over the host's deliveries as the sequence of its events
(46_channel_decoder.md R182, 20_memory.md R78). -/

namespace Sys2Proof.Machine

/-! ### Sequences that report nothing -/

/-- Events that leave `t` and report nothing. -/
abbrev Quietly (es : List InputEvent) (s t : State) : Prop := runEvents es s = ([], .next t)

/-- Two such sequences, one after the other. -/
theorem Quietly.append {xs ys : List InputEvent} {s t u : State} (h : Quietly xs s t) (h' : Quietly ys t u) :
    Quietly (xs ++ ys) s u := by
  rw [Quietly, runEvents_append h, h', List.nil_append]

/-- Each initial part of such a sequence reports nothing either, and its last event has the output `NONE`. -/
theorem Quietly.take {es : List InputEvent} : ∀ {s u : State}, Quietly es s u → ∀ k, k ≤ es.length →
    ∃ t, Quietly (es.take k) s t ∧ (0 < k → t.out = .none) := by
  induction es with
  | nil =>
    intro s u _ k hk
    obtain rfl : k = 0 := Nat.le_zero.mp hk
    exact ⟨s, rfl, fun h => absurd h (by decide)⟩
  | cons e es ih =>
    intro s u h k hk
    cases k with
    | zero => exact ⟨s, rfl, fun h => absurd h (by decide)⟩
    | succ k =>
      obtain ⟨v, os, first, rest, none⟩ := runEvents_cons_next h
      obtain ⟨silent, rfl⟩ := List.append_eq_nil_iff.mp none.symm
      have out : v.out = .none := by
        by_contra reports
        have mem : v.out ∈ reported v.out := mem_reported.mpr ⟨rfl, reports⟩
        exact absurd (silent ▸ mem) List.not_mem_nil
      obtain ⟨t, run, last⟩ := ih rest k (Nat.le_of_succ_le_succ hk)
      refine ⟨t, (runEvents_cons_quiet first out _).trans run, fun _ => ?_⟩
      cases k with
      | zero =>
        obtain rfl : v = t := Host.Outcome.next.inj (congrArg Prod.snd run)
        exact out
      | succ k => exact last (Nat.succ_pos k)

/-- Bits fed one by one, each by an event that reports nothing and moves an invariant on. -/
theorem quietly_feeds {bs : List Bit} : ∀ {I : Nat → State → Prop},
    (∀ (k : Nat) (hk : k < bs.length) (s : State) (ts : BitVec Config.tsW), I k s →
      ∃ t, exec (.feed bs[k]) { s with ts := ts } = .next t ∧ t.out = .none ∧ I (k + 1) t) →
    ∀ {es : List InputEvent} {s : State}, es.map (·.word) = feedWords bs → I 0 s →
      ∃ t, Quietly es s t ∧ I bs.length t := by
  induction bs with
  | nil =>
    intro I _ es s words start
    obtain rfl := List.map_eq_nil_iff.mp words
    exact ⟨s, rfl, start⟩
  | cons b bs ih =>
    intro I step es s words start
    obtain ⟨e, es, rfl, word, words⟩ := List.map_eq_cons_iff.mp words
    obtain ⟨t, run, out, next⟩ := step 0 (Nat.succ_pos _) s e.ts start
    have first : processEvent e s = .next t := by
      obtain ⟨w, ts⟩ := e
      obtain rfl : w = eventWord 0 1 b := word
      exact (processEvent_feed b ts s).trans run
    obtain ⟨u, rest, last⟩ := ih (I := fun k => I (k + 1))
      (fun k hk => step (k + 1) (Nat.succ_lt_succ hk)) words next
    exact ⟨u, (runEvents_cons_quiet first out _).trans rest, last⟩

/-! ### The deliveries still to come -/

/-- No trellis step reads the deliveries. -/
theorem deliveries_keptByTrellis : KeptByTrellis (fun s t => ∃ x, t = { s with inputs := x }) Eq Eq where
  counts := by rintro s _ ⟨x, rfl⟩; exact ⟨rfl, rfl⟩
  acs := by rintro s _ r _ ⟨x, rfl⟩ rfl; exact ⟨x, rfl⟩
  append := by rintro s _ v _ a ⟨x, rfl⟩ rfl; exact ⟨x, rfl⟩
  emitted := by rintro s _ ⟨x, rfl⟩; rfl
  flushed := by rintro s _ rem ⟨x, rfl⟩; rfl

/-- A completed message does not show the deliveries. -/
theorem completed_inputs_comm (u : State) (x : List InputEvent) :
    completed { u with inputs := x } = { completed u with inputs := x } := by
  have report : ∀ d : State, messageReport { d with inputs := x } = messageReport d := fun _ => rfl
  have verdict : ∀ d : State, crcValid { d with inputs := x } = crcValid d := fun _ => rfl
  have checked := checkMessage_comm (fun d => { d with inputs := x }) (fun _ _ => rfl) (fun _ => rfl) (fun _ => rfl) u
  rw [completed, checked, report, verdict]
  rfl

/-- An outcome alike to a next state is a related one. -/
theorem alikeUpTo_next {R : State → State → Prop} {s : State} {r : Run} (h : Claims.AlikeUpTo R (.next s) r) :
    ∃ t, r = .next t ∧ R s t := by
  cases r with
  | next t => exact ⟨t, rfl, h⟩
  | fault | refused => exact h.elim

/-- Trellis steps under other deliveries. -/
theorem vitSteps_inputs {rs : List Symbol} {s u : State} (h : vitSteps rs s = .next u) (x : List InputEvent) :
    vitSteps rs { s with inputs := x } = .next { u with inputs := x } := by
  have same : List.Forall₂ Eq rs rs := List.forall₂_same.mpr fun _ _ => rfl
  have alike := deliveries_keptByTrellis.vitSteps_alike same (s := s) (t := { s with inputs := x }) ⟨x, rfl⟩
  rw [h] at alike
  obtain ⟨_, run, y, rfl⟩ := alikeUpTo_next alike
  have kept : y = x := congrArg State.inputs (vitSteps_trellis run).rest
  rw [run, kept]

/-- FEED under other deliveries. -/
theorem exec_feed_inputs {b : Bit} {s t : State} (h : exec (.feed b) s = .next t) (x : List InputEvent) :
    exec (.feed b) { s with inputs := x } = .next { t with inputs := x } := by
  cases exec_effect h with
  | hunt _ hunting => exact exec_feed_hunting (s := { s with inputs := x }) hunting
  | fill _ locked room => exact exec_feed_filling (s := { s with inputs := x }) locked room
  | closed _ u locked full early steps =>
    have more : u.ngrp ≠ 17 := by rwa [groupSteps_trellis steps]
    rw [exec_feed_full (s := { s with inputs := x }) locked full]
    exact andThen_eq_next.mpr ⟨_, vitSteps_inputs steps x, by rw [if_neg more]; rfl⟩
  | completed _ u locked full last steps =>
    have enough : u.ngrp = 17 := by rwa [groupSteps_trellis steps]
    rw [exec_feed_full (s := { s with inputs := x }) locked full]
    exact andThen_eq_next.mpr ⟨_, vitSteps_inputs steps x, by rw [if_pos enough, completed_inputs_comm]⟩
  | record _ _ _ message => exact nomatch message

/-- No instruction reads the deliveries. -/
theorem exec_inputs {i : Instr} {s t : State} (h : exec i s = .next t) (x : List InputEvent) :
    exec i { s with inputs := x } = .next { t with inputs := x } := by
  cases i
  case feed b => exact exec_feed_inputs h x
  case resyncFeed b =>
    rw [exec_resyncFeed] at h ⊢
    cases h
    rfl
  all_goals
    cases h
    rfl

/-- Giving an event to the block does not depend on the deliveries. -/
theorem processEvent_inputs {e : InputEvent} {s t : State} (h : processEvent e s = .next t) (x : List InputEvent) :
    processEvent e { s with inputs := x } = .next { t with inputs := x } :=
  exec_inputs h x

/-- A run whose first step answers. -/
theorem run_succ {M : Host.Core} {s t : M.State} (h : M.step s = .next t) (k : Nat) : M.run (k + 1) s = M.run k t := by
  rw [Host.Core.run, h]

/-- A run over the first deliveries is the sequence of those events, the others still to come. -/
theorem run_of_runEvents {es rest : List InputEvent} : ∀ {s t : State} {os : List OutEvent}, s.inputs = es ++ rest →
    runEvents es { s with inputs := rest } = (os, .next t) → Host.Core.run Sys2Proof.core es.length s = .next t := by
  induction es with
  | nil =>
    intro s t os inputs h
    obtain rfl : { s with inputs := rest } = t := Host.Outcome.next.inj (congrArg Prod.snd h)
    rw [List.nil_append] at inputs
    rw [← inputs]
    rfl
  | cons e es ih =>
    intro s t os inputs h
    obtain ⟨u, os', first, tail, -⟩ := runEvents_cons_next h
    have kept : u.inputs = rest := (exec_configuration (by rwa [processEvent_eq] at first)).2.2.2.1
    have now : step s = .next { u with inputs := es ++ rest } := by
      have popped : s = { s with inputs := e :: (es ++ rest) } := by rw [← List.cons_append, ← inputs]
      rw [popped]
      exact processEvent_inputs first (es ++ rest)
    rw [List.length_cons, run_succ (M := Sys2Proof.core) now]
    refine ih rfl (os := os') ?_
    rw [← tail, ← kept]

end Sys2Proof.Machine
end

section
/-! PROOFS. Clean frames decode to the message that was encoded: at once in a batch, event by event in a run, and after a
RESYNC from any state (46_channel_decoder.md R183, R184). -/

namespace Sys2Proof.Machine

/-! ### Between groups of a clean frame -/

/-- The configuration, the counters and the deliveries of `t` are those of `s`. -/
structure SameInstance (s t : State) : Prop where
  freq : t.freq = s.freq
  forwardInvalid : t.forwardInvalid = s.forwardInvalid
  enc : t.enc = s.enc
  cntAttempt : t.cntAttempt = s.cntAttempt
  cntPass : t.cntPass = s.cntPass
  cntAbandon : t.cntAbandon = s.cntAbandon
  inputs : t.inputs = s.inputs

theorem SameInstance.trans {s t u : State} (h : SameInstance s t) (h' : SameInstance t u) : SameInstance s u :=
  ⟨h'.freq.trans h.freq, h'.forwardInvalid.trans h.forwardInvalid, h'.enc.trans h.enc, h'.cntAttempt.trans h.cntAttempt,
    h'.cntPass.trans h.cntPass, h'.cntAbandon.trans h.cntAbandon, h'.inputs.trans h.inputs⟩

/-- The decoder, started from `s`, after the sync word and `g` groups of the message `m`. -/
structure AtGroup (m : List Byte) (g : Nat) (s t : State) : Prop where
  settled : t.Settled
  locked : t.sync = true
  fill : t.grpfill = 0
  group : t.ngrp.toNat = g
  path : OnPath m (16 * g) t
  same : SameInstance s t

/-- A state whose trellis fields are those of `s` is where `s` is on the path. -/
theorem OnPath.congr {m : List Byte} {n : Nat} {s t : State} (h : OnPath m n s) (cost : t.cost = s.cost)
    (bits : t.bits = s.bits) (index : t.p = s.p) (steps : t.nbits = s.nbits) (count : t.nout = s.nout)
    (msg : t.msg = s.msg) : OnPath m n t := by
  obtain ⟨⟨alone, history⟩, ⟨scheduled, bound, wf⟩, counted, decoded⟩ := h
  have curCost : curCost t = curCost s := by rw [Machine.curCost, Machine.curCost, cost, index]
  have curBits : curBits t = curBits s := by rw [Machine.curBits, Machine.curBits, bits, index]
  refine ⟨⟨curCost ▸ alone, curBits ▸ history⟩, ⟨?_, ?_, ?_⟩, ?_, ?_⟩
  · rw [count, steps, scheduled]
  · rw [steps]; exact bound
  · rw [msg]; exact wf
  · rw [steps, counted]
  · rw [DecodedSoFar, count, msg]; exact decoded

/-- The bits of a word but for the last, and the last: shifted into any group buffer they leave the word. -/
theorem bitsOf_split (w : Group) : ∃ (bs : List Bit) (b : Bit), bitsOf 32 w = bs ++ [b] ∧ bs.length = 31 ∧
    ∀ x : Group, (bs.foldl shiftIn x <<< 1) ||| b.setWidth 32 = w := by
  have some : bitsOf 32 w ≠ [] := List.ne_nil_of_length_pos (by rw [bitsOf_length]; decide)
  have split := List.dropLast_append_getLast some
  refine ⟨(bitsOf 32 w).dropLast, (bitsOf 32 w).getLast some, split.symm, by rw [List.length_dropLast, bitsOf_length],
    fun x => ?_⟩
  have all := foldl_shiftIn_bitsOf w x
  rw [← split, List.foldl_append] at all
  exact all

/-- `t` with the first `k` of some bits in its group buffer, whatever the timestamp and the output. -/
def Filled (bs : List Bit) (t : State) (k : Nat) (v : State) : Prop :=
  ∃ (ts : BitVec Config.tsW) (o : OutEvent),
    v = { t with grp := (bs.take k).foldl shiftIn t.grp, grpfill := BitVec.ofNat 6 k, ts := ts, out := o }

/-- The bits of a group but for the last fill the group buffer, and report nothing. -/
theorem quietly_fill {t : State} (locked : t.sync = true) (empty : t.grpfill = 0) {bs : List Bit} (length : bs.length = 31)
    {es : List InputEvent} (words : es.map (·.word) = feedWords bs) : ∃ v, Quietly es t v ∧ Filled bs t 31 v := by
  have start : Filled bs t 0 t := ⟨t.ts, t.out, by rw [show BitVec.ofNat 6 0 = t.grpfill from empty.symm]; rfl⟩
  rw [← length]
  refine quietly_feeds (fun k hk s ts filled => ?_) words start
  obtain ⟨_, _, rfl⟩ := filled
  have room : BitVec.ofNat 6 k ≠ 31 := by bv_omega
  refine ⟨_, exec_feed_filling locked room, rfl, ts, .none, ?_⟩
  rw [← List.take_append_getElem hk, List.foldl_append, BitVec.ofNat_add]
  rfl

/-- What the last event of a group leaves, the group not yet closed: the trellis has moved on along the message's path. -/
structure GroupDone (m : List Byte) (g : Nat) (t : State) (last : InputEvent) (u : State) : Prop where
  path : OnPath m (16 * (g + 1)) u
  /-- Nothing but the group buffer, what trellis steps write, the timestamp and the output differs. -/
  rest : u = { t with
    grp := u.grp
    grpfill := u.grpfill
    cost := u.cost
    bits := u.bits
    p := u.p
    nbits := u.nbits
    msg := u.msg
    nout := u.nout
    ts := last.ts
    out := .none }

/-- The last bit of a full group runs the trellis steps on the message's path. -/
theorem AtGroup.lastBit {m : List Byte} (hm : Padded m) {g : Nat} (hg : g ≤ 17) {s t v : State} (he : Distinguishes s.enc)
    (h : AtGroup m g s t) {bs : List Bit} {b : Bit} (filled : Filled bs t 31 v) (length : bs.length = 31)
    (whole : ∀ x : Group, (bs.foldl shiftIn x <<< 1) ||| b.setWidth 32 = wireGroup s.enc m g) (ts : BitVec Config.tsW) :
    ∃ u, GroupDone m g t ⟨eventWord 0 1 b, ts⟩ u ∧
      processEvent ⟨eventWord 0 1 b, ts⟩ v = .next (if g = 17 then completed u else closeGroup u) := by
  obtain ⟨-, locked, -, group, path, same⟩ := h
  obtain ⟨_, o, rfl⟩ := filled
  rw [List.take_of_length_le length.le]
  have path' := path.congr (t := shiftGroup b (emit .none
    { t with grp := bs.foldl shiftIn t.grp, grpfill := 31, ts := ts, out := o })) rfl rfl rfl rfl rfl rfl
  obtain ⟨u, steps, path''⟩ := path'.vitSteps hm he 16 same.enc (by omega)
  have rest := groupSteps_trellis steps
  have count : u.ngrp = 17 ↔ g = 17 := by
    rw [rest, ← group]
    constructor <;> intro h <;> bv_omega
  rw [← symbolsOf_wireGroup hm hg] at steps
  refine ⟨u, ⟨by rwa [Nat.mul_succ], by rw [rest]⟩, ?_⟩
  have fed := exec_feed_full (b := b) (s := { t with grp := bs.foldl shiftIn t.grp, grpfill := 31, ts := ts, out := o })
    locked rfl
  rw [whole, steps, andThen_next] at fed
  simp only [count] at fed
  exact (processEvent_feed b ts _).trans fed

/-- The events of one group: all but the last report nothing, and the last closes the group or completes the message. -/
theorem AtGroup.events {m : List Byte} (hm : Padded m) {g : Nat} (hg : g ≤ 17) {s t : State} (he : Distinguishes s.enc)
    (h : AtGroup m g s t) {es : List InputEvent} (words : es.map (·.word) = feedWords (bitsOf 32 (wireGroup s.enc m g))) :
    ∃ init last v u, es = init ++ [last] ∧ init.length = 31 ∧ Quietly init t v ∧ GroupDone m g t last u ∧
      processEvent last v = .next (if g = 17 then completed u else closeGroup u) := by
  obtain ⟨bs, b, split, length, whole⟩ := bitsOf_split (wireGroup s.enc m g)
  rw [split, feedWords, List.map_append] at words
  obtain ⟨init, tail, rfl, initWords, tailWords⟩ := List.map_eq_append_iff.mp words
  obtain ⟨⟨_, ts⟩, rfl, rfl⟩ := List.map_eq_singleton_iff.mp tailWords
  obtain ⟨v, quiet, filled⟩ := quietly_fill h.locked h.fill length initWords
  obtain ⟨u, done, final⟩ := h.lastBit hm hg he filled length whole ts
  refine ⟨init, _, v, u, rfl, ?_, quiet, done, final⟩
  rw [← List.length_map (f := (·.word)), initWords, List.length_map, length]

/-- A sequence that reports nothing keeps the invariants. -/
theorem Quietly.settled {es : List InputEvent} {s t : State} (h : Quietly es s t) (settled : s.Settled) : t.Settled := by
  obtain ⟨os, t', run, settled'⟩ := runEvents_total es settled
  obtain rfl : t = t' := Host.Outcome.next.inj (congrArg Prod.snd (h.symm.trans run))
  exact settled'

/-- The events of a group before the eighteenth report nothing and bring the decoder to the next group. -/
theorem AtGroup.next {m : List Byte} (hm : Padded m) {g : Nat} (hg : g < 17) {s t : State} (he : Distinguishes s.enc)
    (h : AtGroup m g s t) {es : List InputEvent} (words : es.map (·.word) = feedWords (bitsOf 32 (wireGroup s.enc m g))) :
    ∃ t', Quietly es t t' ∧ AtGroup m (g + 1) s t' := by
  obtain ⟨init, last, v, u, rfl, -, quiet, ⟨path, rest⟩, final⟩ := h.events hm hg.le he words
  rw [if_neg hg.ne] at final
  have groups : (closeGroup u).ngrp = t.ngrp + 1 := by rw [closeGroup_ngrp, rest]
  have out : (closeGroup u).out = .none := by rw [closeGroup_out, rest]
  refine ⟨closeGroup u, quiet.append (runEvents_cons_quiet final out []), ?settled, ?locked, rfl, ?group,
    path.congr rfl rfl rfl rfl rfl rfl, h.same.trans ?same⟩
  case settled => exact everyStepKeepsTheStateSettled { v with inputs := last :: v.inputs } _ (quiet.settled h.settled) final
  case locked => rw [closeGroup_sync, rest]; exact h.locked
  case group => rw [groups, ← h.group]; have := h.group; bv_omega
  case same => rw [rest]; exact ⟨rfl, rfl, rfl, rfl, rfl, rfl, rfl⟩

/-- The events of the first `n` groups. -/
theorem AtGroup.groups {m : List Byte} (hm : Padded m) {s t : State} (he : Distinguishes s.enc) (h : AtGroup m 0 s t)
    (n : Nat) : n ≤ 17 → ∀ {es : List InputEvent},
      es.map (·.word) = feedWords ((List.range n).flatMap fun g => bitsOf 32 (wireGroup s.enc m g)) →
      ∃ t', Quietly es t t' ∧ AtGroup m n s t' := by
  induction n with
  | zero =>
    intro _ es words
    obtain rfl := List.map_eq_nil_iff.mp words
    exact ⟨t, rfl, h⟩
  | succ n ih =>
    intro hn es words
    rw [List.range_succ, List.flatMap_append, List.flatMap_singleton, feedWords, List.map_append] at words
    obtain ⟨first, last, rfl, firstWords, lastWords⟩ := List.map_eq_append_iff.mp words
    obtain ⟨u, quiet, here⟩ := ih (Nat.le_of_succ_le hn) firstWords
    obtain ⟨t', quiet', there⟩ := here.next hm hn he lastWords
    exact ⟨t', quiet.append quiet', there⟩

/-! ### The sync word -/

/-- `s` with the first `k` bits of the sync word in a cleared register, whatever the timestamp and the output. -/
def Synced (s : State) (k : Nat) (t : State) : Prop :=
  ∃ (ts : BitVec Config.tsW) (o : OutEvent), t = { s with
    reg := (syncBits.take k).foldl shiftIn (0 : BitVec 16), sync := decide (16 ≤ k), ts := ts, out := o }

/-- The sync word's events lock a hunting decoder with a cleared register, and report nothing. -/
theorem quietly_sync {s : State} (hunting : s.sync = false) (cleared : s.reg = 0) {es : List InputEvent}
    (words : es.map (·.word) = feedWords syncBits) : ∃ t, Quietly es s t ∧ Synced s 16 t := by
  have whole : ∀ k, k < 16 →
      decide ((syncBits.take (k + 1)).foldl shiftIn (0 : BitVec 16) = syncWord) = decide (16 ≤ k + 1) := by decide
  have start : Synced s 0 s := ⟨s.ts, s.out, by
    rw [show decide (16 ≤ 0) = s.sync from hunting.symm, List.take_zero, List.foldl_nil, ← cleared]⟩
  refine quietly_feeds (bs := syncBits) (fun k hk t ts synced => ?_) words start
  obtain ⟨_, _, rfl⟩ := synced
  have early : decide (16 ≤ k) = false := decide_eq_false (Nat.not_le.mpr hk)
  refine ⟨_, exec_feed_hunting early, rfl, ts, .none, ?_⟩
  rw [← whole k hk, ← List.take_append_getElem hk, List.foldl_append]
  rfl

/-- With the sync word the decoder is at the first group of any message. -/
theorem atGroup_zero (m : List Byte) {s t : State} (settled : s.Settled) (hunting : s.sync = false) (synced : Synced s 16 t) :
    AtGroup m 0 s t := by
  obtain ⟨ts, o, rfl⟩ := synced
  obtain ⟨cleared, -, rest⟩ := settled
  have locked : State.Settled { s with
      reg := (syncBits.take 16).foldl shiftIn (0 : BitVec 16), sync := decide (16 ≤ 16), ts := ts, out := o } :=
    ⟨(fun hunts => nomatch hunts), fun _ => rfl, rest⟩
  obtain ⟨-, fill, groups, cost, bits, index, steps, count, -⟩ := cleared hunting
  have metrics : s.cost.get s.p = startMetrics := by rw [cost, index]; rfl
  have histories : s.bits.get s.p = PerState.all 0 := by rw [bits, index]; rfl
  have path : TruePath m 0 { s with
      reg := (syncBits.take 16).foldl shiftIn (0 : BitVec 16), sync := decide (16 ≤ 16), ts := ts, out := o } :=
    ⟨by rw [curCost, metrics]; exact aloneAtZero_startMetrics, by rw [curBits, histories]; exact PerState.get_all 0 _⟩
  refine ⟨locked, rfl, fill, by rw [groups]; rfl, ⟨path, locked.onSchedule, by rw [steps]; rfl, fun a ha => ?_⟩,
    ⟨rfl, rfl, rfl, rfl, rfl, rfl, rfl⟩⟩
  rw [count] at ha
  exact absurd ha (Nat.not_lt_zero a)

/-! ### The end of a clean frame -/

/-- The report of a decoded message: the record of the message that was encoded. -/
theorem messageReport_decoded {body : List Byte} (h : body.length = 32) {u : State} (wf : u.msg.wf = true)
    (lfsr : u.lfsr = lfsrInit) (crc : u.crc = crcInit) (count : u.nout.toNat = 36)
    (decoded : DecodedSoFar (whiten (makeMessage body)) u) :
    crcValid (checkMessage u) = true ∧ messageReport (checkMessage u) = .record
      { valid := true, kind := kindOf (body.getD 4 0), type := body.getD 4 0,
        serial := body.getD 1 0 ++ body.getD 0 0, rtime := body.getD 3 0 ++ body.getD 2 0,
        freq := u.freq, ts := u.ts, msg := makeMessage body } := by
  obtain ⟨bytes, computed, received⟩ := checkMessage_decoded h wf lfsr crc count decoded
  have agree := computed.trans received.symm
  have body_byte : ∀ a, a < 32 → (checkMessage u).msg.byteAt a = body.getD a 0 := fun a ha => by
    rw [bytes a (by omega), makeMessage_getD_body h ha]
  have whole : ((List.range 36).map fun a => (checkMessage u).msg.byteAt a) = makeMessage body := by
    have all := bytesFrom_eq (n := 36) (makeMessage_length h).ge bytes
    rw [List.take_of_length_le (makeMessage_length h).le] at all
    simpa [Memory.bytesFrom] using all
  have freq : (checkMessage u).freq = u.freq := by rw [checkMessage_frame]
  have ts : (checkMessage u).ts = u.ts := by rw [checkMessage_frame]
  refine ⟨(crcValid_iff _).mpr agree, ?_⟩
  rw [messageReport_eq, if_pos (.inl agree), Claims.recordIn, whole, freq, ts, body_byte 0 (by decide), body_byte 1 (by decide),
    body_byte 2 (by decide), body_byte 3 (by decide), body_byte 4 (by decide), decide_eq_true agree]

/-- A decode state that hunts afresh is the constructed one. -/
theorem State.IsHuntingAfresh.eq_powerOn {s : State} (h : s.IsHuntingAfresh) :
    s = { State.powerOn s.freq s.forwardInvalid s.enc with
      cntAttempt := s.cntAttempt, cntPass := s.cntPass, cntAbandon := s.cntAbandon, ts := s.ts, inputs := s.inputs,
      out := s.out } := by
  obtain ⟨sync, reg, grp, fill, groups, cost, bits, index, steps, count, msg, lfsr, crc, rxcrc⟩ := h
  cases s
  simp only at sync reg grp fill groups cost bits index steps count msg lfsr crc rxcrc
  subst sync reg grp fill groups cost bits index steps count msg lfsr crc rxcrc
  rfl

/-- The state a clean frame leaves, as a constructed one. -/
theorem afterCleanFrame_eq (body : List Byte) (last : InputEvent) (rest : List InputEvent) {s : State}
    (h : s.IsHuntingAfresh) :
    Claims.afterCleanFrame body last rest s = { State.powerOn s.freq s.forwardInvalid s.enc with
      cntAttempt := s.cntAttempt + 1
      cntPass := s.cntPass + 1
      cntAbandon := s.cntAbandon
      ts := last.ts
      inputs := rest
      out := .record
        { valid := true, kind := kindOf (body.getD 4 0), type := body.getD 4 0,
          serial := body.getD 1 0 ++ body.getD 0 0, rtime := body.getD 3 0 ++ body.getD 2 0,
          freq := s.freq, ts := last.ts, msg := makeMessage body } } :=
  congrArg (Claims.afterCleanFrame body last rest) h.eq_powerOn

/-- The events of the eighteenth group: all but the last report nothing, and the last completes the message. -/
theorem AtGroup.last {body : List Byte} (length : body.length = 32) {s t : State} (he : Distinguishes s.enc)
    (afresh : s.IsHuntingAfresh) (h : AtGroup (whiten (makeMessage body)) 17 s t) {es : List InputEvent}
    (words : es.map (·.word) = feedWords (bitsOf 32 (wireGroup s.enc (whiten (makeMessage body)) 17))) :
    ∃ init last v, es = init ++ [last] ∧ init.length = 31 ∧ Quietly init t v ∧
      processEvent last v = .next (Claims.afterCleanFrame body last s.inputs s) := by
  obtain ⟨init, last, v, u, rfl, short, quiet, ⟨path, rest⟩, final⟩ :=
    h.events (padded_whiten length) le_rfl he words
  refine ⟨init, last, v, rfl, short, quiet, ?_⟩
  obtain ⟨-, -, -, -, ⟨lfsr, crc, -⟩, -⟩ := h.settled
  obtain ⟨-, schedule, counted, decoded⟩ := path
  have count : u.nout.toNat = 36 := by rw [schedule.count, counted]; rfl
  obtain ⟨valid, report⟩ := messageReport_decoded length schedule.wf (by rw [rest]; exact lfsr) (by rw [rest]; exact crc)
    count decoded
  obtain ⟨freq, policy, enc, attempt, pass, abandon, inputs⟩ := h.same
  rw [final, if_pos rfl, completed_eq, valid, report, rest, afterCleanFrame_eq body last s.inputs afresh,
    ← freq, ← policy, ← enc, ← attempt, ← pass, ← abandon, ← inputs]
  rfl

/-- A clean frame: its first 591 events report nothing, and the last one answers the starting state with the record of the
message that was encoded. -/
theorem cleanFrame {body : List Byte} (length : body.length = 32) {s : State} (he : Distinguishes s.enc)
    (settled : s.Settled) (hunting : s.sync = false) (cleared : s.reg = 0) {es : List InputEvent}
    (words : Delivers s.enc es [.frame (makeMessage body)]) :
    ∃ init last v, es = init ++ [last] ∧ init.length = 591 ∧ Quietly init s v ∧
      processEvent last v = .next (Claims.afterCleanFrame body last s.inputs s) := by
  have bits : es.map (·.word) = feedWords (syncBits ++ encodeMessage s.enc (makeMessage body)) := by
    rw [words, traceWords, List.flatMap_singleton]; rfl
  rw [encodeMessage_eq, feedWords, List.map_append, List.map_append] at bits
  obtain ⟨sync, message, rfl, syncWords, messageWords⟩ := List.map_eq_append_iff.mp bits
  obtain ⟨groups, lastGroup, rfl, groupWords, lastWords⟩ := List.map_eq_append_iff.mp messageWords
  obtain ⟨_, quietSync, synced⟩ := quietly_sync hunting cleared syncWords
  obtain ⟨t, quietGroups, here⟩ := (atGroup_zero _ settled hunting synced).groups (padded_whiten length) he 17 le_rfl groupWords
  obtain ⟨init, last, v, rfl, short, quiet, final⟩ := here.last length he ⟨hunting, cleared, settled.1 hunting⟩ lastWords
  refine ⟨sync ++ (groups ++ init), last, v, by simp only [List.append_assoc], ?_, quietSync.append (quietGroups.append quiet),
    final⟩
  have syncLength : sync.length = 16 := by rw [← List.length_map (f := (·.word)), syncWords]; rfl
  have groupsLength : groups.length = 544 := by
    rw [← List.length_map (f := (·.word)), groupWords, List.length_map, List.length_flatMap]
    simp
  rw [List.length_append, List.length_append, syncLength, groupsLength, short]

/-- Settles O58: the frame by `cleanFrame`, and what follows it by `runEvents_append`. -/
theorem recordInMidBatchIsReported : Obligations.RecordInMidBatchIsReported := by
  intro body frame more last s length he settled hunting cleared words isLast
  obtain ⟨init, last', v, rfl, -, quiet, final⟩ := cleanFrame length he settled hunting cleared words
  obtain rfl : last' = last := by rw [List.getLast?_concat] at isLast; exact Option.some.inj isLast
  rw [List.append_assoc, runEvents_append quiet, List.singleton_append, runEvents_cons final]
  rfl

/-! ### Runs -/

/-- Settles O51: `cleanFrame` under the deliveries still to come, and a run over deliveries as their sequence of events. -/
theorem cleanFramesDecodeToTheirMessage : Obligations.CleanFramesDecodeToTheirMessage := by
  intro body events rest last s length he settled hunting cleared inputs words isLast
  have frame := fun pending => cleanFrame (s := { s with inputs := pending }) length he settled hunting cleared words
  constructor
  · intro k pos small
    obtain ⟨init, last', v, rfl, count, quiet, -⟩ := frame (events.drop k ++ rest)
    obtain ⟨t, run, out⟩ := quiet.take k (by omega)
    have part : (init ++ [last']).take k = init.take k := List.take_append_of_le_length (by omega)
    have now := run_of_runEvents (by rw [inputs, ← part, ← List.append_assoc, List.take_append_drop]) run
    rw [List.length_take, count, Nat.min_eq_left (by omega)] at now
    exact ⟨t, now, out pos⟩
  · obtain ⟨init, last', v, rfl, count, quiet, final⟩ := frame rest
    obtain rfl : last' = last := by rw [List.getLast?_concat] at isLast; exact Option.some.inj isLast
    have run : runEvents (init ++ [last']) { s with inputs := rest } = (_, _) :=
      (runEvents_append quiet [last']).trans (by rw [runEvents_cons final, runEvents_nil])
    have now := run_of_runEvents inputs run
    rw [List.length_append, count] at now
    exact now

/-- A step that takes a RESYNC off the deliveries. -/
theorem step_resync {s : State} {c : Bit} {ts : BitVec Config.tsW} {rest : List InputEvent}
    (inputs : s.inputs = ⟨eventWord 1 0 c, ts⟩ :: rest) :
    step s = .next (doResync (emit .none { s with inputs := rest })) := by
  have popped : s = { s with inputs := ⟨eventWord 1 0 c, ts⟩ :: rest } := by rw [← inputs]
  rw [popped]
  exact processEvent_resync c ts { s with inputs := rest }

/-- Settles O52: a RESYNC leaves a settled hunting decoder with a cleared register, and then a clean frame is decoded. -/
theorem resyncThenFrameDecodesInAnyState : Obligations.ResyncThenFrameDecodesInAnyState := by
  intro body events rest last s length he inputs words isLast
  obtain ⟨⟨_, ts⟩, frame, rfl, rfl, frameWords⟩ := List.map_eq_cons_iff.mp words
  have first := step_resync (s := s) inputs
  have settled := resetDecodeState_settled (countAbandon (emit .none { s with inputs := frame ++ rest }))
  have delivers : Delivers s.enc frame [.frame (makeMessage body)] := frameWords
  obtain ⟨init, last', v, rfl, -⟩ :=
    cleanFrame (s := doResync (emit .none { s with inputs := frame ++ rest })) length he settled rfl rfl delivers
  rw [← List.cons_append, List.getLast?_concat] at isLast
  obtain ⟨silent, final⟩ := cleanFramesDecodeToTheirMessage body (init ++ [last']) rest last
    (doResync (emit .none { s with inputs := init ++ [last'] ++ rest })) length he settled rfl rfl rfl delivers
    (by rw [List.getLast?_concat, isLast])
  constructor
  · intro k pos small
    obtain ⟨k, rfl⟩ : ∃ j, k = j + 1 := ⟨k - 1, by omega⟩
    rw [run_succ (M := Sys2Proof.core) first]
    cases k with
    | zero => exact ⟨_, rfl, rfl⟩
    | succ k => exact silent (k + 1) (Nat.succ_pos k) (by omega)
  · rw [run_succ (M := Sys2Proof.core) first]
    exact final

end Sys2Proof.Machine
end
